-- ==== Sys2Proof/Word.lean ====
section
/-! DEFINITION. The word types of SHA256MC-CORE and a group of eight words (rules R9, R13, R17, R24, R29). -/

namespace Sys2Proof

/-- A 32-bit unsigned word; `+` on it is modulo 2^32 (R9). -/
abbrev Word := BitVec 32

/-- A byte of the message, of `buf` or of the digest. -/
abbrev Byte := BitVec 8

/-- A 40-bit command word (R56). -/
abbrev CmdWord := BitVec 40

/-- A 64-byte block, `B[0]` the earliest message byte (R38). -/
abbrev Block := Vector Byte 64

/-- Eight words in the spec's order: for `H` and `DIGEST`, `a` is element 0 and `h` element 7 (R17, R24); for the
working variables the fields are `a`..`h` themselves (R29). -/
structure Words8 where
  a : Word
  b : Word
  c : Word
  d : Word
  e : Word
  f : Word
  g : Word
  h : Word
deriving DecidableEq, Repr

/-- All eight words zero. -/
def Words8.zero : Words8 := ⟨0, 0, 0, 0, 0, 0, 0, 0⟩

/-- Word-by-word addition modulo 2^32 (R75, R79). -/
def Words8.add (x y : Words8) : Words8 :=
  ⟨x.a + y.a, x.b + y.b, x.c + y.c, x.d + y.d, x.e + y.e, x.f + y.f, x.g + y.g, x.h + y.h⟩

/-- The eight words in order, element 0 first. -/
def Words8.toList (x : Words8) : List Word := [x.a, x.b, x.c, x.d, x.e, x.f, x.g, x.h]

end Sys2Proof
end

