-- ==== Sys2Proof/Config.lean ====
section
/-! DEFINITION. The parameters of SHA256MC-CORE (rule R7) and its free values: the outputs the spec leaves open
while BUSY = 1 (rule R114). -/

namespace Sys2Proof

/-- MAX_MSG_BYTES = 2^61 − 1 (R7, R88). -/
def Config.maxMsgBytes : Nat := 2 ^ 61 - 1

/-- BLOCK_BYTES = BUFFER_BYTES = 64 (R7). -/
def Config.blockBytes : Nat := 64

/-- ROUNDS = 64 (R7). -/
def Config.rounds : Nat := 64

/-- BEAT_MAX_BYTES = 4 (R7). -/
def Config.beatMaxBytes : Nat := 4

/-- The REFERENCE value of the open parameter COMPRESS_CYCLES (R7, R117): the schedule `clockEdge` follows. -/
def Config.refCompressCycles : Nat := 66

/-- The REFERENCE value of the open parameter FINALIZE_TAIL_CYCLES (R7, R117). -/
def Config.refFinalizeTailCycles : Nat := 1

/-- FREE VALUE (log entry 4): what the STATUS fields other than BUSY show at the host's `k`-th sampling when that
falls in a busy command (R114: "a model must give them arbitrary values"). -/
opaque Config.busyStatus : Nat → BitVec 32

/-- FREE VALUE (log entry 4): what the `digest` port shows at the host's `k`-th sampling when that falls in a busy
command (R114). -/
opaque Config.busyDigest : Nat → BitVec 256

end Sys2Proof
end

