-- ==== Sys2Proof/Syntax.lean ====
section
/-! DEFINITION. The commands: one constructor per row of spec/opcode_table.json (rules R56, R57, R58). -/

namespace Sys2Proof

/-- A command of SHA256MC-CORE (R57). -/
inductive Instr where
  /-- NOP, OP 0x0 (R84). -/
  | nop
  /-- INIT, OP 0x1 (R85). -/
  | init
  /-- UPDATE, OP 0x2: `len` message bytes, in the lanes of `data`, first byte most significant (R58, R86). -/
  | update (len : BitVec 3) (data : Word)
  /-- FINALIZE, OP 0x3 (R89). -/
  | finalize
deriving DecidableEq, Repr

end Sys2Proof
end

