-- ==== Sys2Proof/WellFormed.lean ====
section
/-! DEFINITION. Which command terms a legal word stands for: UPDATE's LEN is 0..4 (rules R56, R61). -/

namespace Sys2Proof

/-- The one check the format needs (R61: "`LEN` must be 0..4"; "`LEN` = 5, 6 or 7 is illegal"). -/
def Instr.wellFormed : Instr → Bool
  | .nop => true
  | .init => true
  | .update len _ => decide (len.toNat ≤ Config.beatMaxBytes)
  | .finalize => true

end Sys2Proof
end

