-- ==== Sys2Proof/Decode.lean ====
section
/-! DEFINITION. The command word: its fields, the total decoder and the encoder (rules R56, R57, R59, R60, R61, R63). -/

namespace Sys2Proof

/-- Why a word is no command (R59, R60, R61). -/
inductive DecodeError where
  /-- OP in 0x4..0xF (R60). -/
  | reservedOp
  /-- OP in 0x0..0x3 with a reserved bit set, or UPDATE with LEN 5..7 (R61). -/
  | badFormat
deriving DecidableEq, Repr

/-- The outcome of decoding a word: a command or a named error (R59). -/
inductive Decoded where
  | command (i : Instr)
  | error (e : DecodeError)
deriving DecidableEq, Repr

/-- OP = `cmd[39:36]` (R56). -/
def opField (w : CmdWord) : BitVec 4 := w.extractLsb' 36 4

/-- RSV = `cmd[35]` (R56). -/
def rsvField (w : CmdWord) : BitVec 1 := w.extractLsb' 35 1

/-- LEN = `cmd[34:32]` (R56). -/
def lenField (w : CmdWord) : BitVec 3 := w.extractLsb' 32 3

/-- DATA = `cmd[31:0]` (R56). -/
def dataField (w : CmdWord) : Word := w.extractLsb' 0 32

/-- `cmd[35:0]`, which NOP, INIT and FINALIZE need zero (R61). -/
def restField (w : CmdWord) : BitVec 36 := w.extractLsb' 0 36

/-- The decoder, total on all 2^40 words, in the check order of R59 and R99. -/
def decode (w : CmdWord) : Decoded :=
  if 4 ≤ (opField w).toNat then .error .reservedOp
  else if opField w = 2 then
    if rsvField w ≠ 0 ∨ Config.beatMaxBytes < (lenField w).toNat then .error .badFormat
    else .command (.update (lenField w) (dataField w))
  else if restField w ≠ 0 then .error .badFormat
  else if opField w = 0 then .command .nop
  else if opField w = 1 then .command .init
  else .command .finalize

/-- The operation code of a command (R57). -/
def Instr.opcode : Instr → BitVec 4
  | .nop => 0
  | .init => 1
  | .update _ _ => 2
  | .finalize => 3

/-- The word of a command (R63): `{OP, RSV, LEN, DATA}` with the reserved bits zero. -/
def encode : Instr → CmdWord
  | .nop => 0x0#4 ++ 0#36
  | .init => 0x1#4 ++ 0#36
  | .update len data => 0x2#4 ++ 0#1 ++ len ++ data
  | .finalize => 0x3#4 ++ 0#36

/-- The command of a table row's word `w` of `nbits` bits, numbered as spec/opcode_table.json numbers them; bits
above `nbits` are zero. -/
def decodeTableWord (nbits w : Nat) : Option Instr :=
  match decode (BitVec.ofNat 40 (w % 2 ^ nbits)) with
  | .command i => some i
  | .error _ => none

end Sys2Proof
end

