-- ==== Sys2Proof/Machine/Operands.lean ====
section
/-! DEFINITION. Byte packing and the operands of UPDATE: BE32, BE64, bytes32, the byte lanes of DATA (rules R11, R38,
R39, R41, R58). No byte order is switchable (rule R42). -/

namespace Sys2Proof.Machine

/-- `BE32(b0, b1, b2, b3)`: `b0` is the most significant byte (R11, R38). -/
def be32 (b0 b1 b2 b3 : Byte) : Word := b0 ++ b1 ++ b2 ++ b3

/-- Byte `k` of `BE64(v)`, `k = 0` the most significant (R11, R39). -/
def be64Byte (v : BitVec 64) (k : Nat) : Byte := v.extractLsb' (56 - 8 * k) 8

/-- `BE64(v)`, the eight bytes most significant first (R11). -/
def be64 (v : BitVec 64) : List Byte := (List.range 8).map (be64Byte v)

/-- `bytes32(w)`, the four bytes most significant first (R11). -/
def bytes32 (w : Word) : List Byte :=
  [w.extractLsb' 24 8, w.extractLsb' 16 8, w.extractLsb' 8 8, w.extractLsb' 0 8]

/-- The 32 bytes of a digest, word 0 first, each word most significant byte first (R24, R40, R92). -/
def digestBytes (x : Words8) : List Byte := x.toList.flatMap bytes32

/-- Message byte `j` of a beat, `DATA[31 − 8j : 24 − 8j]` (R41, R58). -/
def beatByte (data : Word) (j : Nat) : Byte := data.extractLsb' (24 - 8 * j) 8

/-- The message bytes of a beat, earliest first: lanes `j = 0..LEN−1`; the other lanes are no operands (R58). -/
def beatBytes (len : BitVec 3) (data : Word) : List Byte := (List.range len.toNat).map (beatByte data)

/-- The block of 64 zero bytes. -/
def zeroBlock : Block := Vector.replicate 64 0

/-- Bytes `ms` laid over a block from index `n` on, the rest of the block kept. -/
def fillBlock (n : Nat) (ms : List Byte) (b : Block) : Block :=
  Vector.ofFn fun i : Fin 64 => if n ≤ i.val ∧ i.val < n + ms.length then ms.getD (i.val - n) 0 else b[i]

/-- Padding of a buffer of `n` message bytes: 0x80 at index `n`, zeros after it (R91). -/
def padMark (n : Nat) (b : Block) : Block :=
  Vector.ofFn fun i : Fin 64 => if i.val < n then b[i] else if i.val = n then 0x80 else 0

/-- The bit length in the last 8 bytes of the final block, most significant byte first (R39, R91). -/
def withLength (l : BitVec 64) (b : Block) : Block :=
  Vector.ofFn fun i : Fin 64 => if i.val < 56 then b[i] else be64Byte l (i.val - 56)

end Sys2Proof.Machine
end

