-- ==== Sys2Proof/Machine/Compress.lean ====
section
/-! DEFINITION. The compression engine as a pure function of a state and a block (rules R73 to R76): the message
schedule, the round, `Compress`. -/

namespace Sys2Proof.Machine

/-- The block's 16 words, `W[i] = BE32(B[4i], B[4i+1], B[4i+2], B[4i+3])` (R38, R73); also what LOAD puts in `Wr`
(R77). -/
def blockWords (b : Block) : Vector Word 16 :=
  Vector.ofFn fun i : Fin 16 => be32 b[4 * i.val] b[4 * i.val + 1] b[4 * i.val + 2] b[4 * i.val + 3]

/-- `W[t] = σ1(W[t-2]) + W[t-7] + σ0(W[t-15]) + W[t-16]` where `w` holds `W[0..t-1]`, `t ≥ 16` (R73). -/
def scheduleNext (w : List Word) : Word :=
  smallSigma1 (w.getD (w.length - 2) 0) + w.getD (w.length - 7) 0 + smallSigma0 (w.getD (w.length - 15) 0)
    + w.getD (w.length - 16) 0

/-- The schedule carried on by `n` words (R73). -/
def extendSchedule : Nat → List Word → List Word
  | 0, w => w
  | n + 1, w => extendSchedule n (w ++ [scheduleNext w])

/-- The message schedule `W[0..63]` of a block (R73). -/
def schedule (b : Block) : List Word := extendSchedule 48 (blockWords b).toList

/-- `Wx[0..79]`, the recurrence of R73 carried on to index 79 (R80). -/
def extendedSchedule (b : Block) : List Word := extendSchedule 64 (blockWords b).toList

/-- `T1` of a round (R74). -/
def roundT1 (k w : Word) (v : Words8) : Word := v.h + bigSigma1 v.e + ch v.e v.f v.g + k + w

/-- `T2` of a round (R74). -/
def roundT2 (v : Words8) : Word := bigSigma0 v.a + maj v.a v.b v.c

/-- One round with constant `k` and schedule word `w`: all eight assignments read the values from before it (R74). -/
def roundStep (k w : Word) (v : Words8) : Words8 :=
  ⟨roundT1 k w v + roundT2 v, v.a, v.b, v.c, v.d + roundT1 k w v, v.e, v.f, v.g⟩

/-- The working variables after rounds `0..n-1` on the schedule `w`, from `v` (R75). -/
def roundsUpTo (w : List Word) : Nat → Words8 → Words8
  | 0, v => v
  | n + 1, v => roundStep (kWord n) (w.getD n 0) (roundsUpTo w n v)

/-- `Compress(S, B)` (R75). -/
def compress (s : Words8) (b : Block) : Words8 := s.add (roundsUpTo (schedule b) Config.rounds s)

end Sys2Proof.Machine
end

