-- ==== Sys2Proof/Machine/State.lean ====
section
/-! DEFINITION. The state of one SHA256MC-CORE instance (rule R14), what the host puts on the input ports (rule R52),
the reset state (rule R35), and the reasons a step can stop. -/

namespace Sys2Proof.Machine

/-- PHASE, the lifecycle state of the context (R22). The value 3 is never produced (U5, log entry 6). -/
inductive Phase where
  /-- 0: no usable context (after reset and after FINALIZE). -/
  | idle
  /-- 1: after INIT. -/
  | active
  /-- 2: after a command error. -/
  | error
deriving DecidableEq, Repr

/-- ERR_CODE, the cause of the first command error since INIT or reset (R23, R96). Codes 5..7 are never produced
(U4, log entry 6). -/
inductive ErrCode where
  /-- 0: no error. -/
  | none
  /-- 1: UPDATE or FINALIZE while PHASE is not ACTIVE. -/
  | notActive
  /-- 2: OP in 0x4..0xF. -/
  | reservedOp
  /-- 3: reserved bits not zero, or LEN 5..7. -/
  | badFormat
  /-- 4: the message would exceed MAX_MSG_BYTES. -/
  | lengthOverflow
deriving DecidableEq, Repr

/-- ESTATE, the engine's state (R32). -/
inductive EState where
  /-- E_IDLE: no compression in flight. -/
  | idle
  /-- E_ROUND: rounds in progress. -/
  | round
  /-- E_ADD: the rounds are done, the state update is the next edge. -/
  | add
deriving DecidableEq, Repr

/-- SEQ, what remains of a busy command beyond the compression in flight (R21; encoding free, log entry 7). -/
inductive Seq where
  /-- 0: nothing pending. -/
  | nothing
  /-- FINALIZE: the digest write (and the zeroing) is still to be done. -/
  | digest
  /-- FINALIZE of two blocks: the length block is still to be compressed, then the digest written. -/
  | lengthBlock
deriving DecidableEq, Repr

/-- What the host puts on the input ports at one rising edge (R52). -/
structure Input where
  /-- The `rst` port. -/
  rst : Bool
  /-- The `cmd_valid` port. -/
  cmdValid : Bool
  /-- The `cmd[39:0]` port. -/
  cmd : CmdWord
deriving DecidableEq, Repr

/-- The state of one instance: R14's list ("exactly the following"), and `inputs`, the model's own field for what
the host does at the coming edges (log entry 2). The small fields stand first: two states that differ in one are told
apart before anything compares their words. -/
structure State where
  /-- ESTATE (R32). -/
  estate : EState
  /-- SEQ (R21). -/
  seq : Seq
  /-- PHASE (R22). -/
  phase : Phase
  /-- BUSY (R26). -/
  busy : Bool
  /-- DIGEST_VALID (R25). -/
  digestValid : Bool
  /-- ERR_CODE (R23). -/
  errCode : ErrCode
  /-- bufLen, 6 bits (R19). -/
  bufLen : BitVec 6
  /-- t, the round counter (R31). -/
  t : BitVec 6
  /-- totalLen, 64 bits, in bytes (R20). -/
  totalLen : BitVec 64
  /-- The model's own: the ports' values at the coming edges, oldest first; past the end the host drives nothing
  (rst = 0, cmd_valid = 0). -/
  inputs : List Input
  /-- buf[0..63] (R18). -/
  buf : Block
  /-- Wr[0..15] (R30). -/
  wr : Vector Word 16
  /-- The working variables a..h (R29). -/
  work : Words8
  /-- DIGEST[0..7] (R24). -/
  digest : Words8
  /-- H[0..7] (R17). -/
  h : Words8
deriving DecidableEq, Repr

/-- Why a step stops with a fault. -/
inductive Fault where
  /-- Raised by `step` and `clockEdge` alone (`busyEdge`), never by a command: BUSY = 1 with ESTATE = E_IDLE and
  nothing in SEQ, for which R77, R78, R79 and R117 have no edge and which no run from reset reaches. Safe (log
  entry 11). -/
  | engineStuck
deriving DecidableEq, Repr

/-- Why a step refuses a command. -/
inductive Refusal where
  /-- A command whose meaning is not written yet, raised by `exec` alone. Safe. No arm raises it: every command has
  its meaning. -/
  | notModelled (mnemonic : String)
deriving DecidableEq, Repr

/-- The state after reset: every element at the value of R35. `inputs` is empty: the host has presented nothing
(DESIGN CHOICE, log entry 2). -/
def State.reset : State where
  h := Words8.zero
  buf := Vector.replicate 64 0
  bufLen := 0
  totalLen := 0
  phase := .idle
  errCode := .none
  digest := Words8.zero
  digestValid := false
  busy := false
  work := Words8.zero
  wr := Vector.replicate 16 0
  t := 0
  estate := .idle
  seq := .nothing
  inputs := []

end Sys2Proof.Machine
end

