-- ==== Sys2Proof/Machine/Ops.lean ====
section
/-! DEFINITION. The operations the commands share: reading the input ports, the error entry (rule R97), reset (rule
R110), one whole compression (rule R81), absorbing a byte (rule R87), padding (rule R91), the digest write (rule R92)
and the zeroing of the context (rule R93). -/

namespace Sys2Proof.Machine

/-- The host drives nothing: rst = 0, cmd_valid = 0. -/
def Input.quiet : Input := ⟨false, false, 0⟩

/-- The host presents the word `w` with rst = 0 (R55). -/
def Input.present (w : CmdWord) : Input := ⟨false, true, w⟩

/-- The host asserts rst (R110). -/
def Input.reset : Input := ⟨true, false, 0⟩

/-- The values on the input ports at the coming edge (R52; log entry 2). -/
def State.nextInput (s : State) : Input := s.inputs.headD Input.quiet

/-- The coming edge's input used up: the core samples the ports once per edge (R55). -/
def State.popInput (s : State) : State := { s with inputs := s.inputs.tail }

/-- `zero_context()` (R93): H, buf, bufLen and totalLen zero. -/
def zeroContext (s : State) : State :=
  { s with h := Words8.zero, buf := zeroBlock, bufLen := 0, totalLen := 0 }

/-- The ERR_CODE of a decode error (R59, R96). -/
def decodeErrCode : DecodeError → ErrCode
  | .reservedOp => .reservedOp
  | .badFormat => .badFormat

/-- TAKING AN ERROR, the core's one exception entry (R97): the first code since INIT or reset is kept (R98), PHASE
becomes ERROR, the context and the digest are zeroed. There is no vector and nothing is saved (R102). -/
def cmdError (code : ErrCode) (s : State) : State :=
  { zeroContext s with
    errCode := if s.phase ≠ .error then code else s.errCode
    phase := .error
    digest := Words8.zero
    digestValid := false }

/-- An edge with rst = 1: every state element takes its reset value (R35, R110); the host's coming inputs stay. -/
def resetEdge (s : State) : State := { State.reset with inputs := s.inputs }

/-- One whole compression of `b` (LOAD, 64 ROUND edges, ADD): `H = Compress(S, B)` and the engine scratch zero
(R81). -/
def runEngine (b : Block) (s : State) : State :=
  { s with
    h := compress s.h b
    work := Words8.zero
    wr := Vector.replicate 16 0
    t := 0
    estate := .idle }

/-- `absorb(m)` (R87): the byte is placed at index bufLen; a full buffer is compressed and cleared. -/
def absorb (m : Byte) (s : State) : State :=
  let filled := s.buf.set s.bufLen.toNat m s.bufLen.isLt
  if s.bufLen.toNat + 1 = Config.blockBytes then
    { runEngine filled s with buf := zeroBlock, bufLen := 0 }
  else
    { s with buf := filled, bufLen := s.bufLen + 1 }

/-- `for j in 0..n-1: absorb(m[j])` (R86). -/
def absorbAll (ms : List Byte) (s : State) : State := ms.foldl (fun s m => absorb m s) s

/-- `L = totalLen * 8`, 64 bits (R90). -/
def bitLength (s : State) : BitVec 64 := s.totalLen * 8

/-- `pad_and_compress(L)` (R91): two blocks exactly when bufLen ≥ 56 (C1). -/
def padAndCompress (l : BitVec 64) (s : State) : State :=
  let marked := { s with buf := padMark s.bufLen.toNat s.buf }
  let lastBlock :=
    if 56 ≤ s.bufLen.toNat then { runEngine marked.buf marked with buf := zeroBlock } else marked
  let withLen := { lastBlock with buf := withLength l lastBlock.buf }
  runEngine withLen.buf withLen

/-- The digest write (R92), with DIGEST_VALID (R89). -/
def writeDigest (s : State) : State := { s with digest := s.h, digestValid := true }

end Sys2Proof.Machine
end

