-- ==== Sys2Proof/Machine/Commands.lean ====
section
/-! DEFINITION. The meanings of the four commands at the transaction level: the state after the command as a function
of the state before it (rules R83 to R93). -/

namespace Sys2Proof.Machine

/-- NOP: no state change, legal in every phase (R84). -/
def execNop (s : State) : Host.Outcome State Fault Refusal := .next s

/-- What INIT leaves (R85): a fresh context, no digest, no error. -/
def initContext (s : State) : State :=
  { s with
    h := iv
    buf := zeroBlock
    bufLen := 0
    totalLen := 0
    phase := .active
    errCode := .none
    digest := Words8.zero
    digestValid := false }

/-- INIT: legal in every phase (R85). -/
def execInit (s : State) : Host.Outcome State Fault Refusal := .next (initContext s)

/-- The error an UPDATE raises, if any, in the order of R99: BAD_FORMAT for LEN 5..7 (R61; such a term stands for no
legal word, log entry 9), NOT_ACTIVE, LENGTH_OVERFLOW (R86, R88). -/
def updateError (len : BitVec 3) (s : State) : Option ErrCode :=
  if Config.beatMaxBytes < len.toNat then some .badFormat
  else if s.phase ≠ .active then some .notActive
  else if Config.maxMsgBytes < s.totalLen.toNat + len.toNat then some .lengthOverflow
  else none

/-- What an UPDATE that raises no error leaves (R86): the beat's bytes absorbed in order, then totalLen. -/
def updateContext (len : BitVec 3) (data : Word) (s : State) : State :=
  { absorbAll (beatBytes len data) s with totalLen := s.totalLen + len.setWidth 64 }

/-- UPDATE (R86). -/
def execUpdate (len : BitVec 3) (data : Word) (s : State) : Host.Outcome State Fault Refusal :=
  match updateError len s with
  | some code => .next (cmdError code s)
  | none => .next (updateContext len data s)

/-- The error a FINALIZE raises, if any (R89). -/
def finalizeError (s : State) : Option ErrCode := if s.phase ≠ .active then some .notActive else none

/-- What a FINALIZE that raises no error leaves (R89): padding and the last compressions, the digest write, the
zeroing, PHASE ← IDLE. -/
def finalizeContext (s : State) : State :=
  { zeroContext (writeDigest (padAndCompress (bitLength s) s)) with phase := .idle }

/-- FINALIZE (R89). -/
def execFinalize (s : State) : Host.Outcome State Fault Refusal :=
  match finalizeError s with
  | some code => .next (cmdError code s)
  | none => .next (finalizeContext s)

end Sys2Proof.Machine
end

