-- ==== Sys2Proof/Machine/Datapath.lean ====
section
/-! DEFINITION. The cycle-level reference schedule: the LOAD, ROUND and ADD edges of the iterative datapath (rules R77,
R78, R79), the finalize tail edge and the acceptance edges of the compressing commands (rule R117). -/

namespace Sys2Proof.Machine

/-- LOAD edge: a compression of `b` starts (R77). -/
def loadEdge (b : Block) (s : State) : State :=
  { s with work := s.h, wr := blockWords b, t := 0, estate := .round, busy := true }

/-- The word shifted into `Wr[15]` (R78). -/
def shiftIn (wr : Vector Word 16) : Word := smallSigma1 wr[14] + wr[9] + smallSigma0 wr[1] + wr[0]

/-- The shift register after a ROUND edge (R78). -/
def shiftWindow (wr : Vector Word 16) : Vector Word 16 :=
  Vector.ofFn fun i : Fin 16 => if h : i.val < 15 then wr[i.val + 1] else shiftIn wr

/-- ROUND edge: round `t` on `K[t]` and `Wr[0]`, the window shifted; after round 63 the engine adds (R78). -/
def roundEdge (s : State) : State :=
  { s with
    work := roundStep (kWord s.t.toNat) s.wr[0] s.work
    wr := shiftWindow s.wr
    t := if s.t = 63 then 0 else s.t + 1
    estate := if s.t = 63 then .add else .round }

/-- ADD edge: the working variables are added into H, the scratch is zeroed (R79); an UPDATE, which has nothing
further pending, ends here with BUSY ← 0 (R21, R117). -/
def addEdge (s : State) : State :=
  { s with
    h := s.h.add s.work
    work := Words8.zero
    wr := Vector.replicate 16 0
    t := 0
    estate := .idle
    busy := s.seq != .nothing }

/-- The edge after FINALIZE's first ADD: LOAD of the block of 56 zero bytes and the length (R117). -/
def lengthBlockEdge (s : State) : State :=
  { loadEdge (withLength (bitLength s) zeroBlock) s with seq := .digest }

/-- FINALIZE's last edge: digest write, context zeroed, PHASE ← IDLE, BUSY ← 0 (R117). -/
def tailEdge (s : State) : State :=
  { zeroContext (writeDigest s) with phase := .idle, busy := false, seq := .nothing }

/-- An edge with BUSY = 1 and rst = 0: the engine or SEQ goes on, whatever the host presents (R55, R77, R78, R79,
R117). -/
def busyEdge (s : State) : Host.Outcome State Fault Refusal :=
  match s.estate, s.seq with
  | .round, _ => .next (roundEdge s)
  | .add, _ => .next (addEdge s)
  | .idle, .lengthBlock => .next (lengthBlockEdge s)
  | .idle, .digest => .next (tailEdge s)
  | .idle, .nothing => .fault .engineStuck

/-- Acceptance edge of an UPDATE that fills the buffer (R117): LOAD of the completed block, the rest of the beat at
the start of `buf`, bufLen and totalLen written. -/
def updateLaunch (len : BitVec 3) (data : Word) (s : State) : State :=
  let bytes := beatBytes len data
  let room := Config.blockBytes - s.bufLen.toNat
  { loadEdge (fillBlock s.bufLen.toNat (bytes.take room) s.buf) s with
    buf := fillBlock 0 (bytes.drop room) zeroBlock
    bufLen := BitVec.ofNat 6 (bytes.length - room)
    totalLen := s.totalLen + len.setWidth 64
    seq := .nothing }

/-- Acceptance edge of a FINALIZE (R117): LOAD of the padded block with the length, or, when bufLen ≥ 56, of the
block ending in 0x80 and zeros. `buf`, bufLen and totalLen keep their values until the tail edge (log entry 8). -/
def finalizeLaunch (s : State) : State :=
  if 56 ≤ s.bufLen.toNat then { loadEdge (padMark s.bufLen.toNat s.buf) s with seq := .lengthBlock }
  else { loadEdge (withLength (bitLength s) (padMark s.bufLen.toNat s.buf)) s with seq := .digest }

/-- How many compressions a command makes when it is accepted in state `s` (R86, R89, R95). -/
def compressionCount (i : Instr) (s : State) : Nat :=
  match i with
  | .nop => 0
  | .init => 0
  | .update len _ =>
    if updateError len s = none ∧ Config.blockBytes ≤ s.bufLen.toNat + len.toNat then 1 else 0
  | .finalize => if finalizeError s ≠ none then 0 else if 56 ≤ s.bufLen.toNat then 2 else 1

/-- Edges occupied by a command accepted in state `s`, for COMPRESS_CYCLES = `cc` and FINALIZE_TAIL_CYCLES = `ft`
(R117; both are open parameters, so they are arguments; log entry 12). -/
def edgesOccupied (cc ft : Nat) (i : Instr) (s : State) : Nat :=
  if compressionCount i s = 0 then 1
  else compressionCount i s * cc + (if i = .finalize then ft else 0)

end Sys2Proof.Machine
end

