-- ==== Sys2Proof/Machine/Dispatch.lean ====
section
/-! DEFINITION. What each command does: one arm per constructor (rule R83). -/

namespace Sys2Proof.Machine

def exec (i : Instr) (s : State) : Host.Outcome State Fault Refusal :=
  match i with
  | .nop => Sys2Proof.Machine.execNop s
  | .init => Sys2Proof.Machine.execInit s
  | .update len data => Sys2Proof.Machine.execUpdate len data s
  | .finalize => Sys2Proof.Machine.execFinalize s

end Sys2Proof.Machine
end

