-- ==== Sys2Proof/Machine/Flags.lean ====
section
/-! DEFINITION. The STATUS register and the output ports (rules R27, R28, R40, R53, R55, R114). -/

namespace Sys2Proof.Machine

/-- The bits of PHASE (R22). -/
def phaseBits : Phase → BitVec 2
  | .idle => 0
  | .active => 1
  | .error => 2

/-- The bits of ERR_CODE (R96). -/
def errBits : ErrCode → BitVec 3
  | .none => 0
  | .notActive => 1
  | .reservedOp => 2
  | .badFormat => 3
  | .lengthOverflow => 4

/-- The STATUS register (R27): BUF_LEN [13:8], ERR_CODE [6:4], DIGEST_VALID [3], BUSY [2], PHASE [1:0], bits 31:14
and 7 zero (R28). -/
def State.statusRegister (s : State) : BitVec 32 :=
  0#18 ++ s.bufLen ++ 0#1 ++ errBits s.errCode ++ BitVec.ofBool s.digestValid ++ BitVec.ofBool s.busy
    ++ phaseBits s.phase

/-- The bits of the STATUS fields other than BUSY: PHASE, DIGEST_VALID, ERR_CODE, BUF_LEN (R27). -/
def statusFieldMask : BitVec 32 := 0x00003F7B

/-- What the `status` port shows at the host's `k`-th sampling (R53). While BUSY = 1 every field but BUSY is a free
value (R114, log entry 4); bits 7 and 31:14 read 0 always (R28, log entry 5). -/
def State.statusPort (k : Nat) (s : State) : BitVec 32 :=
  if s.busy then (Config.busyStatus k &&& statusFieldMask) ||| 0x00000004 else s.statusRegister

/-- `{DIGEST[0], …, DIGEST[7]}` (R40, R53). -/
def State.digestRegister (s : State) : BitVec 256 :=
  s.digest.a ++ s.digest.b ++ s.digest.c ++ s.digest.d ++ s.digest.e ++ s.digest.f ++ s.digest.g ++ s.digest.h

/-- What the `digest` port shows at the host's `k`-th sampling (R53); a free value while BUSY = 1 (R114). -/
def State.digestPort (k : Nat) (s : State) : BitVec 256 :=
  if s.busy then Config.busyDigest k else s.digestRegister

/-- `cmd_ready = ¬BUSY ∧ ¬rst`, with the coming edge's rst (R53, R55). -/
def State.cmdReady (s : State) : Bool := !s.busy && !s.nextInput.rst

/-- Acceptance at the coming edge: rst = 0, cmd_valid = 1 and cmd_ready = 1 (R55). -/
def State.accepts (s : State) : Bool := s.nextInput.cmdValid && s.cmdReady

end Sys2Proof.Machine
end

