-- ==== Sys2Proof/Machine/Edge.lean ====
section
/-! DEFINITION. One rising edge: reset, the busy engine, or the acceptance of a word (rules R55, R83, R110, R113), at
the transaction level (`acceptWord`) and at the cycle level of the reference schedule (`startWord`, `clockEdge`); runs
of accepted words (rules R48, R121). -/

namespace Sys2Proof.Machine

/-- The error the word `w` raises when it is accepted in state `s`, if any; the order of the checks is R99's. -/
def wordError (w : CmdWord) (s : State) : Option ErrCode :=
  match decode w with
  | .error e => some (decodeErrCode e)
  | .command (.update len _) => updateError len s
  | .command .finalize => finalizeError s
  | .command .nop => none
  | .command .init => none

/-- `Step(w)` (R83): decode, then the error entry or the command, whole (R45). -/
def acceptWord (w : CmdWord) (s : State) : Host.Outcome State Fault Refusal :=
  match decode w with
  | .command i => exec i s
  | .error e => .next (cmdError (decodeErrCode e) s)

/-- The acceptance edge `e0` of a command in the reference schedule (R26, R117): a command that needs no compression
is done at it, another starts the engine. -/
def startCommand (i : Instr) (s : State) : Host.Outcome State Fault Refusal :=
  if compressionCount i s = 0 then exec i s
  else match i with
    | .update len data => .next (updateLaunch len data s)
    | .finalize => .next (finalizeLaunch s)
    | .nop => exec .nop s
    | .init => exec .init s

/-- `Step(w)` in the reference schedule: what happens at the acceptance edge itself (R83, R117). -/
def startWord (w : CmdWord) (s : State) : Host.Outcome State Fault Refusal :=
  match decode w with
  | .command i => startCommand i s
  | .error e => .next (cmdError (decodeErrCode e) s)

/-- One rising edge of `clk` (R52), `accept` saying what the acceptance of a word does: rst = 1 resets (R110); while
BUSY = 1 the engine goes on and `cmd` is ignored (R55, R113); else a valid word is accepted (R55); else nothing
changes. -/
def edgeWith (accept : CmdWord → State → Host.Outcome State Fault Refusal) (s : State) :
    Host.Outcome State Fault Refusal :=
  if s.nextInput.rst then .next (resetEdge s.popInput)
  else if s.busy then busyEdge s.popInput
  else if s.nextInput.cmdValid then accept s.nextInput.cmd s.popInput
  else .next s.popInput

/-- One rising edge in the cycle-level reference schedule (R77, R78, R79, R117). -/
def clockEdge (s : State) : Host.Outcome State Fault Refusal := edgeWith startWord s

/-- `n` edges of the reference schedule. -/
def clockEdges : Nat → State → Host.Outcome State Fault Refusal
  | 0, s => .next s
  | n + 1, s =>
    match clockEdge s with
    | .next t => clockEdges n t
    | .fault r => .fault r
    | .refused r => .refused r

/-- The words `ws` accepted in order, each command whole (R45, R48, R121). -/
def acceptAll : List CmdWord → State → Host.Outcome State Fault Refusal
  | [], s => .next s
  | w :: ws, s =>
    match acceptWord w s with
    | .next t => acceptAll ws t
    | .fault r => .fault r
    | .refused r => .refused r

/-- What the host that means to have `ws` accepted puts on the ports: the next word, held until it is accepted, and
nothing after the last (R112, R113, R120). -/
def heldInput : List CmdWord → List Input
  | [] => []
  | w :: _ => [Input.present w]

/-- The end of the command sequence `ws` in the reference schedule (R121): the state at the first edge after the
acceptance of its last word at which BUSY = 0, if that comes within `n` edges. -/
def sequenceEnd : Nat → List CmdWord → State → Option State
  | 0, ws, s => if ws = [] ∧ s.busy = false then some s else none
  | n + 1, ws, s =>
    if ws = [] ∧ s.busy = false then some s
    else match clockEdge { s with inputs := heldInput ws } with
      | .next t => sequenceEnd n (if s.busy then ws else ws.tail) t
      | .fault _ => none
      | .refused _ => none

/-- The compressions made by the commands `is` accepted in order from `s` (R95). -/
def compressionsInRun : List Instr → State → Nat
  | [], _ => 0
  | i :: is, s =>
    compressionCount i s +
      match exec i s with
      | .next t => compressionsInRun is t
      | .fault _ => 0
      | .refused _ => 0

end Sys2Proof.Machine
end

