-- ==== Sys2Proof/Machine/Step.lean ====
section
/-! DEFINITION. One step of the machine, at the transaction level, and the placing of a word where the step takes its
next command. -/

namespace Sys2Proof.Machine

/-- One edge at the transaction level, which is the normative one (D1, log entry 1): an accepted command happens whole
(R45, R83). -/
def step (s : State) : Host.Outcome State Fault Refusal := edgeWith acceptWord s

/-- `s` with the host presenting the word `w` of `nbits` bits at the coming edge, ready to be accepted: rst = 0,
cmd_valid = 1 and BUSY = 0, so that the very next step accepts it (R55, log entry 3). -/
def State.withFetchWord (s : State) (nbits w : Nat) : State :=
  { s with busy := false, inputs := Input.present (BitVec.ofNat 40 (w % 2 ^ nbits)) :: s.inputs }

end Sys2Proof.Machine
end

