-- ==== Sys2Proof/Machine/Assembler.lean ====
section
/-! DEFINITION. The textual form of a command sequence and the pseudo-commands (rules R63, R64; log entry 14 for what
they leave open). It is the host's side: nothing of it is a command of the core. -/

namespace Sys2Proof.Machine

/-- One line of text, read. -/
inductive AsmLine where
  | nop
  | init
  /-- `UPDATE n, d` (R63). -/
  | update (n d : Nat)
  | finalize
  /-- `RAW w` (R63). -/
  | raw (w : Nat)
  /-- `UPDATE.B b0[, b1[, b2[, b3]]]` (R64). -/
  | updateBytes (bs : List Nat)
  /-- `UPDATE.HEX "h0h1..."` (R64). -/
  | updateHex (text : List Char)
  /-- `UPDATE.STR "text"` (R64). -/
  | updateStr (text : List Char)
  /-- `HASH.STR "text"` (R64). -/
  | hashStr (text : List Char)
  /-- `WAIT`: no command and no encoding (R64). -/
  | wait
deriving DecidableEq, Repr

/-- The value of a hexadecimal digit, of either case. -/
def hexDigit (c : Char) : Option Nat :=
  if '0' ≤ c ∧ c ≤ '9' then some (c.toNat - '0'.toNat)
  else if 'a' ≤ c ∧ c ≤ 'f' then some (c.toNat - 'a'.toNat + 10)
  else if 'A' ≤ c ∧ c ≤ 'F' then some (c.toNat - 'A'.toNat + 10)
  else none

/-- The value of a decimal digit. -/
def decDigit (c : Char) : Option Nat := if '0' ≤ c ∧ c ≤ '9' then some (c.toNat - '0'.toNat) else none

/-- A number in base `base`, `acc` the value read so far and `any` whether a digit has been read; `_` only groups
digits (R8). -/
def readDigits (base : Nat) (digit : Char → Option Nat) : Nat → Bool → List Char → Option Nat
  | acc, any, [] => if any then some acc else none
  | acc, any, c :: cs =>
    if c = '_' then readDigits base digit acc any cs
    else match digit c with
      | some d => readDigits base digit (acc * base + d) true cs
      | none => none

/-- A number: decimal, or hexadecimal with the prefix `0x` (R63). -/
def readNumber : List Char → Option Nat
  | '0' :: 'x' :: cs => readDigits 16 hexDigit 0 false cs
  | cs => readDigits 10 decDigit 0 false cs

/-- The bytes of an even number of hexadecimal digits, two per byte (R64). -/
def hexBytes : List Char → Option (List Byte)
  | [] => some []
  | [_] => none
  | a :: b :: cs =>
    match hexDigit a, hexDigit b, hexBytes cs with
    | some x, some y, some bs => some (BitVec.ofNat 8 (16 * x + y) :: bs)
    | _, _, _ => none

/-- The escape `HH` after a backslash and an `x`, if these are its characters. -/
def hexEscape (c x a b : Char) : Option Byte :=
  if c = Char.ofNat 0x5c ∧ x = 'x' then
    match hexDigit a, hexDigit b with
    | some p, some q => some (BitVec.ofNat 8 (16 * p + q))
    | _, _ => none
  else none

/-- The byte of a character 0x20 to 0x7E (R64). -/
def charByte (c : Char) : Option Byte :=
  if 0x20 ≤ c.toNat ∧ c.toNat ≤ 0x7e then some (BitVec.ofNat 8 c.toNat) else none

/-- The bytes of a text: one per character, an escape `\xHH` one byte (R64). The number is fuel: the text's length. -/
def textBytes : Nat → List Char → Option (List Byte)
  | _, [] => some []
  | 0, _ :: _ => none
  | n + 1, c :: cs =>
    let plain : Option (List Byte) :=
      match charByte c, textBytes n cs with
      | some b, some bs => some (b :: bs)
      | _, _ => none
    match cs with
    | x :: p :: q :: rest =>
      match hexEscape c x p q with
      | some b => (textBytes n rest).map (b :: ·)
      | none => plain
    | _ => plain

/-- The bytes of a text (R64). -/
def strBytes (text : List Char) : Option (List Byte) := textBytes text.length text

/-- One UPDATE of one to four bytes, missing bytes written as 0x00 (R64). -/
def byteBeat (bs : List Byte) : CmdWord :=
  encode (.update (BitVec.ofNat 3 bs.length) (be32 (bs.getD 0 0) (bs.getD 1 0) (bs.getD 2 0) (bs.getD 3 0)))

/-- Bytes cut into groups of four from the start, a last group of one to three (R64). -/
def byteBeats : List Byte → List CmdWord
  | b0 :: b1 :: b2 :: b3 :: rest => encode (.update 4 (be32 b0 b1 b2 b3)) :: byteBeats rest
  | [] => []
  | b0 :: rest => [byteBeat (b0 :: rest)]

/-- The words a line stands for (R63, R64). -/
def AsmLine.words : AsmLine → Option (List CmdWord)
  | .nop => some [encode .nop]
  | .init => some [encode .init]
  | .update n d =>
    if n ≤ Config.beatMaxBytes ∧ d < 2 ^ 32 then some [encode (.update (BitVec.ofNat 3 n) (BitVec.ofNat 32 d))] else none
  | .finalize => some [encode .finalize]
  | .raw w => if w < 2 ^ 40 then some [BitVec.ofNat 40 w] else none
  | .updateBytes bs =>
    if 1 ≤ bs.length ∧ bs.length ≤ Config.beatMaxBytes ∧ bs.all (· < 256) then
      some [byteBeat (bs.map (BitVec.ofNat 8))] else none
  | .updateHex text => (hexBytes text).map byteBeats
  | .updateStr text => (strBytes text).map byteBeats
  | .hashStr text => (strBytes text).map fun bs => encode .init :: byteBeats bs ++ [encode .finalize]
  | .wait => some []

/-- A blank inside a line. -/
def isBlank (c : Char) : Bool := c = ' ' || c = Char.ofNat 9 || c = Char.ofNat 13

/-- Blanks taken off both ends. -/
def trimBlanks (cs : List Char) : List Char :=
  ((cs.dropWhile isBlank).reverse.dropWhile isBlank).reverse

/-- The text between two double quotes, nothing but blanks or a comment around it (log entry 14). -/
def readQuoted (cs : List Char) : Option (List Char) :=
  let quote := Char.ofNat 0x22
  match cs.dropWhile isBlank with
  | [] => none
  | c :: rest =>
    if c ≠ quote then none
    else match rest.dropWhile (· ≠ quote) with
      | [] => none
      | _ :: after =>
        match after.dropWhile isBlank with
        | [] => some (rest.takeWhile (· ≠ quote))
        | d :: _ => if d = ';' then some (rest.takeWhile (· ≠ quote)) else none

/-- The operands of a line, separated by commas, each a number; a comment is dropped (R63). -/
def readOperands (cs : List Char) : Option (List Nat) :=
  let body := trimBlanks (cs.takeWhile (· ≠ ';'))
  if body = [] then some [] else ((body.splitOn ',').map fun o => readNumber (trimBlanks o)).allSome

/-- One line read: `some none` for a line of blanks and a comment, `none` for a line that is none of R63's or R64's
forms. -/
def readLine (cs : List Char) : Option (Option AsmLine) :=
  let cs := cs.dropWhile isBlank
  let name := String.ofList (cs.takeWhile fun c => !isBlank c && c ≠ ';')
  let rest := cs.dropWhile fun c => !isBlank c && c ≠ ';'
  if name = "" then some none
  else if name = "UPDATE.HEX" then (readQuoted rest).map fun t => some (.updateHex t)
  else if name = "UPDATE.STR" then (readQuoted rest).map fun t => some (.updateStr t)
  else if name = "HASH.STR" then (readQuoted rest).map fun t => some (.hashStr t)
  else match readOperands rest with
    | none => none
    | some ops =>
      if name = "NOP" ∧ ops = [] then some (some .nop)
      else if name = "INIT" ∧ ops = [] then some (some .init)
      else if name = "FINALIZE" ∧ ops = [] then some (some .finalize)
      else if name = "WAIT" ∧ ops = [] then some (some .wait)
      else if name = "UPDATE.B" then some (some (.updateBytes ops))
      else match ops with
        | [w] => if name = "RAW" then some (some (.raw w)) else none
        | [n, d] => if name = "UPDATE" then some (some (.update n d)) else none
        | _ => none

/-- The words of a line of text. -/
def lineWords (cs : List Char) : Option (List CmdWord) :=
  match readLine cs with
  | none => none
  | some none => some []
  | some (some l) => l.words

/-- The command words of a text, one command per line (R63). -/
def assemble (text : List Char) : Option (List CmdWord) :=
  ((text.splitOn (Char.ofNat 10)).map lineWords).allSome.map List.flatten

end Sys2Proof.Machine
end

