-- ==== Sys2Proof/Machine/Message.lean ====
section
/-! DEFINITION. SHA-256 of a whole message, the function the command sequences compute, and those sequences
(rules R49, R94, R112). -/

namespace Sys2Proof.Machine

/-- `z`, the least number ≥ 0 with `(N + 1 + z) mod 64 = 56` (R94). -/
def padZeros (n : Nat) : Nat := (119 - n % 64) % 64

/-- `M ++ 0x80 ++ 0x00^z ++ BE64(8N)` (R94). -/
def padMessage (m : List Byte) : List Byte :=
  m ++ [0x80] ++ List.replicate (padZeros m.length) 0 ++ be64 (BitVec.ofNat 64 (8 * m.length))

/-- The first 64 bytes of a list as a block. -/
def toBlock (bs : List Byte) : Block := Vector.ofFn fun i : Fin 64 => bs.getD i.val 0

/-- The first `n` blocks of a list of bytes, in order. -/
def takeBlocks : Nat → List Byte → List Block
  | 0, _ => []
  | n + 1, bs => toBlock bs :: takeBlocks n (bs.drop 64)

/-- The blocks of a list of bytes whose length is a multiple of 64. -/
def messageBlocks (bs : List Byte) : List Block := takeBlocks (bs.length / 64) bs

/-- The SHA-256 digest of a message (R94): `Compress` applied from `IV` to the blocks of the padded message, in
order. -/
def sha256 (m : List Byte) : Words8 := (messageBlocks (padMessage m)).foldl compress iv

/-- The UPDATE commands of a message cut into beats, each a LEN and a DATA (R49, R94). -/
def beatCommands (beats : List (BitVec 3 × Word)) : List Instr := beats.map fun b => .update b.1 b.2

/-- The message bytes the beats carry, in order (R58). -/
def beatsMessage (beats : List (BitVec 3 × Word)) : List Byte := beats.flatMap fun b => beatBytes b.1 b.2

/-- INIT, then the beats (R112 steps 3 and 4). -/
def messageCommands (beats : List (BitVec 3 × Word)) : List Instr := .init :: beatCommands beats

/-- INIT, the beats, FINALIZE (R94, R112 steps 3 to 5). -/
def hashCommands (beats : List (BitVec 3 × Word)) : List Instr := messageCommands beats ++ [.finalize]

end Sys2Proof.Machine
end

