-- ==== Sys2Proof/Safety.lean ====
section
/-! DEFINITION. What a safe run is: the relations the spec states between the elements of the state (rules R18 to R23,
R26, R29 to R32, R115), kept by every edge, and in which no edge stops. -/

namespace Sys2Proof

open Sys2Proof.Machine

/-- A legal state: one the rules allow. Every clause names the rule it is. -/
structure Legal (s : State) : Prop where
  /-- ERR_CODE is nonzero exactly when PHASE = ERROR (R23). -/
  err_iff : s.errCode ≠ .none ↔ s.phase = .error
  /-- totalLen ≤ MAX_MSG_BYTES (R20). -/
  total_le : s.totalLen.toNat ≤ Config.maxMsgBytes
  /-- bufLen = totalLen mod 64 (R19). -/
  bufLen_eq : s.bufLen.toNat = s.totalLen.toNat % 64
  /-- `buf[bufLen..63]` hold 0x00 (R18). -/
  tail_zero : ∀ i : Fin 64, s.bufLen.toNat ≤ i.val → s.buf[i] = 0
  /-- DIGEST is zero when DIGEST_VALID = 0 (R115). -/
  digest_zero : s.digestValid = false → s.digest = Words8.zero
  /-- A digest is shown only in IDLE (R24, R25: INIT and the error entry clear it). -/
  valid_idle : s.phase ≠ .idle → s.digestValid = false
  /-- Outside ACTIVE the context is zero (R35, R93, R97). -/
  context_zero : s.phase ≠ .active → s.h = Words8.zero ∧ s.totalLen = 0
  /-- Only a command of an ACTIVE context is ever busy (R26, R86, R89). -/
  busy_active : s.busy = true → s.phase = .active
  /-- When BUSY = 0 nothing is pending and no compression is in flight (R21, R26, R32). -/
  quiet : s.busy = false → s.seq = .nothing ∧ s.estate = .idle
  /-- Outside a compression the engine scratch is zero (R29, R30, U12). -/
  scratch_zero : s.estate = .idle → s.work = Words8.zero ∧ s.wr = Vector.replicate 16 0
  /-- Outside the rounds the round counter is zero (R31, R78). -/
  counter_zero : s.estate ≠ .round → s.t = 0
  /-- BUSY = 1 between two compressions or before the tail edge only while SEQ holds something (R21). -/
  pending : s.busy = true → s.estate = .idle → s.seq ≠ .nothing
  /-- A length block is pending only for a FINALIZE of two blocks (R91, R117). -/
  two_blocks : s.seq = .lengthBlock → 56 ≤ s.bufLen.toNat

/-- Reset is not asserted at any of the coming edges. -/
def NoReset (s : State) : Prop := ∀ x ∈ s.inputs, x.rst = false

/-- The context and what the host can see: every element but the engine's, SEQ, BUSY and the host's inputs. -/
def SameContext (s t : State) : Prop :=
  s.h = t.h ∧ s.buf = t.buf ∧ s.bufLen = t.bufLen ∧ s.totalLen = t.totalLen ∧ s.phase = t.phase
    ∧ s.errCode = t.errCode ∧ s.digest = t.digest ∧ s.digestValid = t.digestValid

end Sys2Proof
end

