-- ==== Sys2Proof/Certificates/Slice0/Obligations.lean ====
section
/-! DEFINITION. The statements for the provers, from the numbered rules of spec/. Each docstring names the rule it
formalises; where a statement has hypotheses, it names the witness in Sys2Proof/Tests/Slice0.lean. -/

open Sys2Proof Sys2Proof.Machine

/-! ### Encoding -/

/-- R63, R59: words written out from the spec decode to the commands they stand for. -/
def Obligations.SpecWordsDecode : Prop :=
  decode 0x0000000000 = .command .nop ∧ decode 0x1000000000 = .command .init ∧
    decode 0x2361626300 = .command (.update 3 0x61626300) ∧ decode 0x3000000000 = .command .finalize ∧
    decode 0x2500000000 = .error .badFormat ∧ decode 0x0000000001 = .error .badFormat ∧
    decode 0xF0FFFFFFFF = .error .reservedOp

/-- R59, R60, R61: what every one of the 2^40 words decodes to, its fields read off its numeric value, and that accepting
a word that decodes to an error raises it, with its code, in every state. The first seven clauses exclude one another;
witnesses test_words_clause1 to test_words_clause7, the last clause's test_decode_refuses. -/
def Obligations.EveryWordDecodes : Prop :=
  ∀ w : CmdWord,
    (4 ≤ w.toNat / 2 ^ 36 → decode w = .error .reservedOp) ∧
    (w.toNat / 2 ^ 36 = 2 → w.toNat / 2 ^ 35 % 2 = 0 → w.toNat / 2 ^ 32 % 8 ≤ 4 →
      decode w = .command (.update (BitVec.ofNat 3 (w.toNat / 2 ^ 32)) (BitVec.ofNat 32 w.toNat))) ∧
    (w.toNat / 2 ^ 36 = 2 → w.toNat / 2 ^ 35 % 2 = 1 ∨ 4 < w.toNat / 2 ^ 32 % 8 → decode w = .error .badFormat) ∧
    (w.toNat / 2 ^ 36 < 4 → w.toNat / 2 ^ 36 ≠ 2 → w.toNat % 2 ^ 36 ≠ 0 → decode w = .error .badFormat) ∧
    (w.toNat / 2 ^ 36 = 0 → w.toNat % 2 ^ 36 = 0 → decode w = .command .nop) ∧
    (w.toNat / 2 ^ 36 = 1 → w.toNat % 2 ^ 36 = 0 → decode w = .command .init) ∧
    (w.toNat / 2 ^ 36 = 3 → w.toNat % 2 ^ 36 = 0 → decode w = .command .finalize) ∧
    ∀ (e : DecodeError) (s : State), decode w = .error e →
      errBits (decodeErrCode e) = (match e with | .reservedOp => 2 | .badFormat => 3) ∧
      acceptWord w s = .next (cmdError (decodeErrCode e) s)

/-- Decoding the word of a well-formed command gives the command back, at every operand value (R56, R59, R63).
Witness test_wf_update4. -/
def Obligations.DecodeEncodeRoundTrip : Prop :=
  ∀ i : Instr, i.wellFormed = true → decode (encode i) = .command i

/-- A word that decodes to a command is that command's word, and the command is well formed: no two words mean one
command but by their ignored lanes, and no bit is masked (R56, R61). Witness test_words_clause2. -/
def Obligations.DecodedWordIsItsEncoding : Prop :=
  ∀ (w : CmdWord) (i : Instr), decode w = .command i → i.wellFormed = true ∧ encode i = w

/-! ### Reset, acceptance and the step -/

/-- R35: every element's value after reset, STATUS included. -/
def Obligations.ResetValues : Prop :=
  State.reset.h = Words8.zero ∧ (∀ i : Fin 64, State.reset.buf[i] = 0) ∧ State.reset.bufLen = 0 ∧
    State.reset.totalLen = 0 ∧ State.reset.phase = .idle ∧ State.reset.errCode = .none ∧
    State.reset.digest = Words8.zero ∧ State.reset.digestValid = false ∧ State.reset.busy = false ∧
    State.reset.work = Words8.zero ∧ (∀ i : Fin 16, State.reset.wr[i] = 0) ∧ State.reset.t = 0 ∧
    State.reset.estate = .idle ∧ State.reset.seq = .nothing ∧ State.reset.statusRegister = 0

/-- R110: an edge with rst = 1, from any state whatsoever (before the first reset and in the middle of a busy command
too), accepts nothing and leaves every element at its reset value, at both levels; the state it leaves is ready for a
command at the first edge with rst = 0, and a further edge with rst = 1 leaves the same. Witness test_reset_busy. -/
def Obligations.ResetEdgeFromAnyState : Prop :=
  ∀ s : State, s.nextInput.rst = true →
    s.cmdReady = false ∧ ∃ t : State, t = { State.reset with inputs := s.inputs.tail } ∧ step s = .next t ∧
      clockEdge s = .next t ∧ (t.nextInput.rst = false → t.cmdReady = true) ∧
      (t.nextInput.rst = true → step t = .next { t with inputs := t.inputs.tail })

/-- The reset state is legal. -/
def Obligations.ResetIsLegal : Prop := Legal State.reset

/-- Every step from a legal state that goes on leaves a legal state (R18 to R23, R26, R29 to R32, R115). Witness
test_legal_step. -/
def Obligations.StepKeepsLegal : Prop := ∀ s t : State, Legal s → step s = .next t → Legal t

/-- Every edge of the reference schedule from a legal state that goes on leaves a legal state. Witness
test_legal_edge. -/
def Obligations.ClockEdgeKeepsLegal : Prop := ∀ s t : State, Legal s → clockEdge s = .next t → Legal t

/-- From a legal state no edge stops: neither level faults or refuses, whatever the host presents (R59, R60, R100,
R118). Witness test_legal_step. -/
def Obligations.LegalStateNeverStops : Prop :=
  ∀ s : State, Legal s → (∃ t, step s = .next t) ∧ ∃ t, clockEdge s = .next t

/-- After reset, whatever the host does at the coming edges, no run stops, every state it passes is legal, and DIGEST
is zero whenever BUSY = 0 and DIGEST_VALID = 0 (R115). -/
def Obligations.RunsFromResetAreSafe : Prop :=
  ∀ (ins : List Input) (k : Nat), ∃ t : State,
    Host.Core.run core k ({ State.reset with inputs := ins } : State) = .next t ∧ Legal t ∧
      (t.busy = false → t.digestValid = false → t.digest = Words8.zero)

/-- R55, R83: when a word is accepted at the coming edge and decodes to a command, the step is `exec` of that command
on the state whose coming input has been used up. Witness test_accepts_init. -/
def Obligations.StepRunsDecodedCommand : Prop :=
  ∀ (s : State) (i : Instr), s.accepts = true → decode s.nextInput.cmd = .command i → step s = exec i s.popInput

/-- R55: at an edge with rst = 0 at which nothing is accepted, `cmd` has no effect: with BUSY = 0 nothing changes at
either level; with BUSY = 1 neither edge depends on `cmd_valid` or `cmd` (R113: the word waits, nothing is lost and no
error is raised). Witnesses test_quiet_edge, test_busy_ignores_cmd. -/
def Obligations.UnacceptedWordHasNoEffect : Prop :=
  ∀ (s : State) (v v' : Bool) (c c' : CmdWord) (rest : List Input),
    (s.busy = false →
      step { s with inputs := ⟨false, false, c⟩ :: rest } = .next { s with inputs := rest } ∧
      clockEdge { s with inputs := ⟨false, false, c⟩ :: rest } = .next { s with inputs := rest }) ∧
    (s.busy = true →
      step { s with inputs := ⟨false, v, c⟩ :: rest } = step { s with inputs := ⟨false, v', c'⟩ :: rest } ∧
      clockEdge { s with inputs := ⟨false, v, c⟩ :: rest } = clockEdge { s with inputs := ⟨false, v', c'⟩ :: rest })

/-- R48: without a reset, the state after a run is a function of the sequence of presented words alone, not of the
edges between them at which the host presented nothing: the step's run over any such edges is the acceptance of the
words in order. That every presented word is accepted at its own sample, one input sample a command, is the model's
choice (log entry 1, DESIGN CHOICE): a busy command of hardware occupies several edges; SequenceEndsAsAccepted is the
statement about those. Witness test_run_two_words. -/
def Obligations.RunIsTheAcceptedSequence : Prop :=
  ∀ (s : State) (ins : List Input), s.busy = false → (∀ x ∈ ins, x.rst = false) →
    Host.Core.run core ins.length ({ s with inputs := ins } : State) =
      acceptAll ((ins.filter (·.cmdValid)).map (·.cmd)) { s with inputs := [] }

/-- Every accepted word, legal or not, in every phase, completes at once at the transaction level, and leaves BUSY,
SEQ and the host's inputs as they were (R45, R59, R83, R100). -/
def Obligations.EveryAcceptedWordCompletes : Prop :=
  ∀ (w : CmdWord) (s : State), ∃ t : State,
    acceptWord w s = .next t ∧ t.busy = s.busy ∧ t.seq = s.seq ∧ t.inputs = s.inputs

/-! ### The commands -/

/-- R84: NOP changes nothing, in any state; a word with OP = 0 and any other bit set is not NOP but takes BAD_FORMAT.
Witness test_words_clause4. -/
def Obligations.NopChangesNothing : Prop :=
  (∀ s : State, exec .nop s = .next s) ∧ decode 0 = .command .nop ∧
    ∀ (w : CmdWord) (s : State), w.toNat / 2 ^ 36 = 0 → w ≠ 0 →
      decode w = .error .badFormat ∧ acceptWord w s = .next (cmdError .badFormat s)

/-- R85: INIT, in every phase: H = IV, buf, bufLen, totalLen, DIGEST zero, DIGEST_VALID and ERR_CODE 0, PHASE ACTIVE;
everything else unchanged; STATUS reads 0x00000001 while BUSY = 0. Witness test_init_status. -/
def Obligations.InitStartsMessage : Prop :=
  ∀ s : State, ∃ t : State,
    t = { s with
      h := ⟨0x6a09e667, 0xbb67ae85, 0x3c6ef372, 0xa54ff53a, 0x510e527f, 0x9b05688c, 0x1f83d9ab, 0x5be0cd19⟩
      buf := Vector.replicate 64 0
      bufLen := 0
      totalLen := 0
      phase := .active
      errCode := .none
      digest := Words8.zero
      digestValid := false } ∧
    exec .init s = .next t ∧ (s.busy = false → t.statusRegister = 0x00000001)

/-- R85: no residue: after INIT, whatever words follow, the context, PHASE, ERR_CODE and the digest registers do not
depend on the state INIT found (BUSY, SEQ and the engine's elements are as INIT found them); and from two legal states
with BUSY = 0 and the same coming inputs the whole state does not. Witness test_no_residue. -/
def Obligations.InitLeavesNoResidue : Prop :=
  ∀ (s s' : State) (ws : List CmdWord),
    (∃ t t' : State,
      acceptAll (encode .init :: ws) s = .next t ∧ acceptAll (encode .init :: ws) s' = .next t' ∧ SameContext t t') ∧
    (Legal s → Legal s' → s.busy = false → s'.busy = false → s.inputs = s'.inputs →
      ∃ t : State, acceptAll (encode .init :: ws) s = .next t ∧ acceptAll (encode .init :: ws) s' = .next t)

/-- R86, R87: an UPDATE whose bytes do not fill the buffer: they are placed from index bufLen on in arrival order,
bufLen and totalLen grow by LEN, and nothing else changes (no compression, no STATUS field but BUF_LEN). Witness
test_update_within. -/
def Obligations.UpdateWithinBlock : Prop :=
  ∀ (s : State) (n : BitVec 3) (d : Word), s.phase = .active → n.toNat ≤ 4 →
    s.totalLen.toNat + n.toNat ≤ 2 ^ 61 - 1 → s.bufLen.toNat + n.toNat < 64 →
    ∃ b : Block,
      (∀ i : Fin 64, b[i] =
        if s.bufLen.toNat ≤ i.val ∧ i.val < s.bufLen.toNat + n.toNat
        then d.extractLsb' (24 - 8 * (i.val - s.bufLen.toNat)) 8 else s.buf[i]) ∧
      exec (.update n d) s = .next { s with
        buf := b
        bufLen := BitVec.ofNat 6 (s.bufLen.toNat + n.toNat)
        totalLen := BitVec.ofNat 64 (s.totalLen.toNat + n.toNat) }

/-- R86, R87, R43: an UPDATE whose bytes reach the block boundary: the bytes up to it complete the block, the block is
compressed once, the rest starts the next block, whose other bytes are zero; totalLen grows by LEN; nothing else
changes but the engine scratch, which is left zero and ESTATE E_IDLE (R79, R81, through log entry 10, DEDUCED). Witness
test_update_across. -/
def Obligations.UpdateAcrossBlock : Prop :=
  ∀ (s : State) (n : BitVec 3) (d : Word), s.phase = .active → n.toNat ≤ 4 →
    s.totalLen.toNat + n.toNat ≤ 2 ^ 61 - 1 → 64 ≤ s.bufLen.toNat + n.toNat →
    ∃ b rest : Block,
      (∀ i : Fin 64, b[i] =
        if s.bufLen.toNat ≤ i.val then d.extractLsb' (24 - 8 * (i.val - s.bufLen.toNat)) 8 else s.buf[i]) ∧
      (∀ i : Fin 64, rest[i] =
        if i.val < s.bufLen.toNat + n.toNat - 64
        then d.extractLsb' (24 - 8 * (i.val + (64 - s.bufLen.toNat))) 8 else 0) ∧
      exec (.update n d) s = .next { s with
        h := compress s.h b
        buf := rest
        bufLen := BitVec.ofNat 6 (s.bufLen.toNat + n.toNat - 64)
        totalLen := BitVec.ofNat 64 (s.totalLen.toNat + n.toNat)
        work := Words8.zero
        wr := Vector.replicate 16 0
        t := 0
        estate := .idle }

/-- R86: an UPDATE of no bytes in ACTIVE changes nothing whatever DATA holds; in IDLE and ERROR it takes NOT_ACTIVE,
because the phase check comes first. Witnesses test_zero_update, test_zero_update_idle. -/
def Obligations.ZeroLengthUpdate : Prop :=
  ∀ (s : State) (d : Word),
    (s.phase = .active → s.totalLen.toNat ≤ 2 ^ 61 - 1 → exec (.update 0 d) s = .next s) ∧
    (s.phase ≠ .active → exec (.update 0 d) s = .next (cmdError .notActive s))

/-- R58: the lanes `j ≥ LEN` of DATA have no effect on any state. Witness test_lanes. -/
def Obligations.UpdateIgnoresUnusedLanes : Prop :=
  ∀ (s : State) (n : BitVec 3) (d d' : Word),
    (∀ j, j < n.toNat → d.extractLsb' (24 - 8 * j) 8 = d'.extractLsb' (24 - 8 * j) 8) →
    exec (.update n d) s = exec (.update n d') s

/-- R42: an UPDATE of LEN bytes has exactly the effect of LEN UPDATEs of one byte each carrying the same bytes in the
same order. Witness test_update_within. -/
def Obligations.UpdateIsItsSingleBytes : Prop :=
  ∀ (s : State) (n : BitVec 3) (d : Word), s.phase = .active → n.toNat ≤ 4 →
    s.totalLen.toNat + n.toNat ≤ 2 ^ 61 - 1 →
    exec (.update n d) s =
      acceptAll ((List.range n.toNat).map fun j => encode (.update 1 (d.extractLsb' (24 - 8 * j) 8 ++ 0#24))) s

/-- R89, R91, R92, R93: FINALIZE with bufLen ≤ 55: one block, the buffer's bytes, 0x80, zeros, BE64 of the bit length
totalLen * 8; DIGEST is H after its compression, DIGEST_VALID 1; H, buf, bufLen, totalLen zero; PHASE IDLE; nothing else
changes (ERR_CODE stays) but the engine scratch, left zero and ESTATE E_IDLE (R79, R81, through log entry 10, DEDUCED).
Witness test_finalize_one. -/
def Obligations.FinalizeOneBlock : Prop :=
  ∀ s : State, s.phase = .active → s.bufLen.toNat ≤ 55 → s.totalLen.toNat ≤ 2 ^ 61 - 1 →
    ∃ b : Block,
      (∀ i : Fin 64, i.val < s.bufLen.toNat → b[i] = s.buf[i]) ∧
      (∀ i : Fin 64, i.val = s.bufLen.toNat → b[i] = 0x80) ∧
      (∀ i : Fin 64, s.bufLen.toNat < i.val → i.val < 56 → b[i] = 0) ∧
      (∀ i : Fin 64, 56 ≤ i.val → b[i].toNat = s.totalLen.toNat * 8 / 256 ^ (63 - i.val) % 256) ∧
      exec .finalize s = .next { s with
        h := Words8.zero
        buf := Vector.replicate 64 0
        bufLen := 0
        totalLen := 0
        phase := .idle
        digest := compress s.h b
        digestValid := true
        work := Words8.zero
        wr := Vector.replicate 16 0
        t := 0
        estate := .idle }

/-- R89, R91, R92, R93: FINALIZE with bufLen ≥ 56: a block of the buffer's bytes, 0x80 and zeros, then a block of 56
zero bytes and BE64 of the bit length; the rest as with one block, the engine scratch left zero and ESTATE E_IDLE here
too (R79, R81, through log entry 10, DEDUCED). Witness test_finalize_two. -/
def Obligations.FinalizeTwoBlocks : Prop :=
  ∀ s : State, s.phase = .active → 56 ≤ s.bufLen.toNat → s.totalLen.toNat ≤ 2 ^ 61 - 1 →
    ∃ b b' : Block,
      (∀ i : Fin 64, i.val < s.bufLen.toNat → b[i] = s.buf[i]) ∧
      (∀ i : Fin 64, i.val = s.bufLen.toNat → b[i] = 0x80) ∧
      (∀ i : Fin 64, s.bufLen.toNat < i.val → b[i] = 0) ∧
      (∀ i : Fin 64, i.val < 56 → b'[i] = 0) ∧
      (∀ i : Fin 64, 56 ≤ i.val → b'[i].toNat = s.totalLen.toNat * 8 / 256 ^ (63 - i.val) % 256) ∧
      exec .finalize s = .next { s with
        h := Words8.zero
        buf := Vector.replicate 64 0
        bufLen := 0
        totalLen := 0
        phase := .idle
        digest := compress (compress s.h b) b'
        digestValid := true
        work := Words8.zero
        wr := Vector.replicate 16 0
        t := 0
        estate := .idle }

/-! ### Errors -/

/-- R99: which error a word raises, the first in the order RESERVED_OP, BAD_FORMAT, NOT_ACTIVE, LENGTH_OVERFLOW, and
none otherwise. Witnesses test_priority_reserved, test_priority_format, test_priority_phase, test_priority_length. -/
def Obligations.ErrorPriority : Prop :=
  ∀ (w : CmdWord) (s : State),
    (4 ≤ w.toNat / 2 ^ 36 → wordError w s = some .reservedOp) ∧
    (decode w = .error .badFormat → w.toNat / 2 ^ 36 < 4 ∧ wordError w s = some .badFormat) ∧
    (∀ n d, decode w = .command (.update n d) →
      (s.phase ≠ .active → wordError w s = some .notActive) ∧
      (s.phase = .active → 2 ^ 61 - 1 < s.totalLen.toNat + n.toNat → wordError w s = some .lengthOverflow) ∧
      (s.phase = .active → s.totalLen.toNat + n.toNat ≤ 2 ^ 61 - 1 → wordError w s = none)) ∧
    (decode w = .command .finalize →
      (s.phase ≠ .active → wordError w s = some .notActive) ∧ (s.phase = .active → wordError w s = none)) ∧
    (decode w = .command .nop ∨ decode w = .command .init → wordError w s = none)

/-- R97: an erring word, at both levels and at its acceptance edge: ERR_CODE is its code unless PHASE is ERROR already,
PHASE becomes ERROR, context and digest are zeroed, and NOTHING else changes: no write of the command itself, BUSY not
set, no compression started. Witnesses test_error_entry, test_error_sticky. -/
def Obligations.ErrorEntry : Prop :=
  ∀ (w : CmdWord) (s : State) (c : ErrCode), wordError w s = some c →
    ∃ t : State,
      t = { s with
        h := Words8.zero
        buf := Vector.replicate 64 0
        bufLen := 0
        totalLen := 0
        errCode := if s.phase = .error then s.errCode else c
        phase := .error
        digest := Words8.zero
        digestValid := false } ∧
      acceptWord w s = .next t ∧ startWord w s = .next t

/-- R86, R88, R89, R96: UPDATE and FINALIZE outside ACTIVE take NOT_ACTIVE; an UPDATE that would make totalLen exceed
2^61 − 1 takes LENGTH_OVERFLOW and absorbs none of its bytes: the context is zero after it. Witnesses
test_zero_update_idle, test_overflow. -/
def Obligations.PhaseAndLengthTraps : Prop :=
  ∀ s : State,
    (s.phase ≠ .active →
      (∀ (n : BitVec 3) (d : Word), n.toNat ≤ 4 → exec (.update n d) s = .next (cmdError .notActive s)) ∧
      exec .finalize s = .next (cmdError .notActive s)) ∧
    ∀ (n : BitVec 3) (d : Word), s.phase = .active → n.toNat ≤ 4 → 2 ^ 61 - 1 < s.totalLen.toNat + n.toNat →
      ∃ t : State, exec (.update n d) s = .next t ∧ t.errCode = .lengthOverflow ∧ t.phase = .error ∧
        t.h = Words8.zero ∧ t.buf = Vector.replicate 64 0 ∧ t.bufLen = 0 ∧ t.totalLen = 0

/-- R98: in ERROR every word but INIT leaves the state as it is: a second error changes nothing, and NOP does nothing.
Witness test_error_sticky. -/
def Obligations.ErrorIsSticky : Prop :=
  ∀ (s : State) (w : CmdWord), Legal s → s.phase = .error → w ≠ encode .init → acceptWord w s = .next s

/-- R101: only reset and an accepted INIT leave ERROR, and both set ERR_CODE to 0. Witness test_leaving_error. -/
def Obligations.OnlyInitAndResetLeaveError : Prop :=
  ∀ s t : State, Legal s → s.phase = .error → step s = .next t → t.phase ≠ .error →
    t.errCode = .none ∧
      (s.nextInput.rst = true ∨ s.accepts = true ∧ s.nextInput.cmd = encode .init ∧ t.phase = .active)

/-! ### Whole-machine rules -/

/-- R22: the context becomes usable only by INIT: whatever the state, no other edge makes PHASE ACTIVE. Witness
test_only_init. -/
def Obligations.OnlyInitActivates : Prop :=
  ∀ s t : State, s.phase ≠ .active → step s = .next t → t.phase = .active →
    s.accepts = true ∧ s.nextInput.cmd = encode .init

/-- R17: what may write H: reset; an accepted INIT, FINALIZE, erring word or UPDATE that completes a block; in a busy
command its ADD edge and its last edge. Witness test_h_written. -/
def Obligations.HashStateWriters : Prop :=
  ∀ s t : State, step s = .next t → t.h ≠ s.h →
    s.nextInput.rst = true ∨
    (s.accepts = true ∧
      (wordError s.nextInput.cmd s ≠ none ∨ s.nextInput.cmd = encode .init ∨ s.nextInput.cmd = encode .finalize ∨
        ∃ n d, s.nextInput.cmd = encode (.update n d) ∧ 64 ≤ s.bufLen.toNat + n.toNat)) ∨
    (s.busy = true ∧ (s.estate = .add ∨ s.estate = .idle ∧ s.seq = .digest))

/-- R24, R25, R115: what may write DIGEST or DIGEST_VALID: reset; an accepted INIT, FINALIZE or erring word; the last
edge of a busy FINALIZE. Everything else holds them. Witness test_digest_written. -/
def Obligations.DigestWriters : Prop :=
  ∀ s t : State, step s = .next t → (t.digest ≠ s.digest ∨ t.digestValid ≠ s.digestValid) →
    s.nextInput.rst = true ∨
    (s.accepts = true ∧
      (wordError s.nextInput.cmd s ≠ none ∨ s.nextInput.cmd = encode .init ∨ s.nextInput.cmd = encode .finalize)) ∨
    (s.busy = true ∧ s.estate = .idle ∧ s.seq = .digest)

/-- R33: the engine's elements (a..h, Wr, t, ESTATE, SEQ) a command finds have no influence on the context, PHASE,
ERR_CODE and the digest registers it leaves. That BUSY has none either is the model's: `exec` leaves the check of
acceptance to the edge (log entry 16, DEDUCED). -/
def Obligations.EngineScratchIsInvisible : Prop :=
  ∀ (i : Instr) (s : State) (work : Words8) (wr : Vector Word 16) (t : BitVec 6) (e : EState) (q : Seq) (busy : Bool),
    ∃ u u' : State, exec i s = .next u ∧
      exec i { s with work := work, wr := wr, t := t, estate := e, seq := q, busy := busy } = .next u' ∧
      SameContext u u'

/-! ### STATUS and the ports -/

/-- R22, R27, R96: the fields of the STATUS register, their bits, and the numbers PHASE and ERR_CODE show. -/
def Obligations.StatusLayout : Prop :=
  ∀ s : State, s.statusRegister.extractLsb' 0 2 = phaseBits s.phase ∧
    s.statusRegister.extractLsb' 2 1 = BitVec.ofBool s.busy ∧
    s.statusRegister.extractLsb' 3 1 = BitVec.ofBool s.digestValid ∧
    s.statusRegister.extractLsb' 4 3 = errBits s.errCode ∧ s.statusRegister.extractLsb' 7 1 = 0 ∧
    s.statusRegister.extractLsb' 8 6 = s.bufLen ∧ s.statusRegister.extractLsb' 14 18 = 0 ∧
    (phaseBits .idle = 0 ∧ phaseBits .active = 1 ∧ phaseBits .error = 2) ∧
    errBits .none = 0 ∧ errBits .notActive = 1 ∧ errBits .reservedOp = 2 ∧ errBits .badFormat = 3 ∧
    errBits .lengthOverflow = 4

/-- R28: STATUS bits 7 and 31:14 read 0 always, at every sampling, while BUSY = 1 too (log entry 5). -/
def Obligations.StatusReservedBitsZero : Prop :=
  ∀ (k : Nat) (s : State), (s.statusPort k).extractLsb' 7 1 = 0 ∧ (s.statusPort k).extractLsb' 14 18 = 0

/-- R55, R114: STATUS.BUSY and cmd_ready are always defined; while BUSY = 0 the ports show the registers. Nothing is
said of the other outputs while BUSY = 1, which are free values. Witness test_status_idle. -/
def Obligations.OutputsOutsideBusy : Prop :=
  ∀ (k : Nat) (s : State), (s.statusPort k).getLsbD 2 = s.busy ∧
    (s.cmdReady = true ↔ s.busy = false ∧ s.nextInput.rst = false) ∧
    (s.busy = false → s.statusPort k = s.statusRegister ∧ s.digestPort k = s.digestRegister)

/-- R40: the digest port while BUSY = 0: `digest[255 − 32i : 224 − 32i] = DIGEST[i]`, and digest byte `k` (of
`bytes32(DIGEST[0]) ++ …`) is `digest[255 − 8k : 248 − 8k]`. Witness test_digest_port. -/
def Obligations.DigestPortLayout : Prop :=
  ∀ (m : Nat) (s : State), s.busy = false →
    (∀ i, i < 8 → (s.digestPort m).extractLsb' (224 - 32 * i) 32 = s.digest.toList.getD i 0) ∧
    ∀ k, k < 32 → (s.digestPort m).extractLsb' (248 - 8 * k) 8 = (digestBytes s.digest).getD k 0

/-! ### The engine -/

/-- R10: the rotation formula, which the spec gives from general knowledge (log entry 13), is the rotation. Witness
test_rotr. -/
def Obligations.RotrIsRotation : Prop := ∀ (x : Word) (n : Nat), 0 < n → n < 32 → rotr x n = x.rotateRight n

/-- R67, R68: each bit of Ch is y's or z's as x says, each bit of Maj the majority of the three; with the rules'
examples. Witness test_ch_maj. -/
def Obligations.ChooseAndMajority : Prop :=
  (∀ (x y z : Word) (i : Nat), i < 32 →
    (ch x y z).getLsbD i = (if x.getLsbD i then y.getLsbD i else z.getLsbD i) ∧
    (maj x y z).getLsbD i = decide (2 ≤ (x.getLsbD i).toNat + (y.getLsbD i).toNat + (z.getLsbD i).toNat)) ∧
  ch 0xff00ff00 0x12345678 0x9abcdef0 = 0x12bc56f0 ∧ maj 0xf0f0f0f0 0xcccccccc 0xaaaaaaaa = 0xe8e8e8e8

/-- R69 to R72: the four sigma functions bit by bit: rotations are indices modulo 32, the shifts bring in zeros.
Witness test_sigma_bits. -/
def Obligations.SigmaBits : Prop :=
  ∀ (x : Word) (i : Nat), i < 32 →
    ((bigSigma0 x).getLsbD i =
      ((x.getLsbD ((i + 2) % 32) ^^ x.getLsbD ((i + 13) % 32)) ^^ x.getLsbD ((i + 22) % 32))) ∧
    ((bigSigma1 x).getLsbD i =
      ((x.getLsbD ((i + 6) % 32) ^^ x.getLsbD ((i + 11) % 32)) ^^ x.getLsbD ((i + 25) % 32))) ∧
    ((smallSigma0 x).getLsbD i =
      ((x.getLsbD ((i + 7) % 32) ^^ x.getLsbD ((i + 18) % 32)) ^^ x.getLsbD (i + 3))) ∧
    ((smallSigma1 x).getLsbD i =
      ((x.getLsbD ((i + 17) % 32) ^^ x.getLsbD ((i + 19) % 32)) ^^ x.getLsbD (i + 10)))

/-- R65, R66 (general knowledge of the spec, log entry 13): every word of the ROMs is the first 32 bits of the fractional part of a root: K[t] of the cube root, IV[i]
of the square root, of the prime of that place in the list of all primes up to 311. Witness test_roms. -/
def Obligations.RomsAreRootsOfPrimes : Prop :=
  (∀ p, p ≤ 311 → (p ∈ firstPrimes ↔ p.Prime)) ∧ firstPrimes.length = 64 ∧ kRom.length = 64 ∧
    firstPrimes.Pairwise (· < ·) ∧
    (∀ t, t < 64 → ∃ r, r ^ 3 ≤ firstPrimes.getD t 0 * 2 ^ 96 ∧ firstPrimes.getD t 0 * 2 ^ 96 < (r + 1) ^ 3 ∧
      (kWord t).toNat = r % 2 ^ 32) ∧
    ∀ i, i < 8 → ∃ r, r ^ 2 ≤ firstPrimes.getD i 0 * 2 ^ 64 ∧ firstPrimes.getD i 0 * 2 ^ 64 < (r + 1) ^ 2 ∧
      (iv.toList.getD i 0).toNat = r % 2 ^ 32

/-- R73: the message schedule: 64 words, the first 16 the block's bytes packed big-endian, the others by the
recurrence. Witness test_schedule_range. -/
def Obligations.ScheduleRecurrence : Prop :=
  ∀ b : Block, (schedule b).length = 64 ∧
    (∀ i : Fin 16, (schedule b).getD i 0 =
      b[4 * i.val] ++ b[4 * i.val + 1] ++ b[4 * i.val + 2] ++ b[4 * i.val + 3]) ∧
    ∀ t, 16 ≤ t → t < 64 →
      (schedule b).getD t 0 = smallSigma1 ((schedule b).getD (t - 2) 0) + (schedule b).getD (t - 7) 0
        + smallSigma0 ((schedule b).getD (t - 15) 0) + (schedule b).getD (t - 16) 0

/-- R41: a beat of four bytes at a buffer index that is a multiple of four is one word of the schedule of the block it
falls in, unchanged. Witness test_aligned_beat. -/
def Obligations.AlignedBeatIsOneScheduleWord : Prop :=
  ∀ (b : Block) (n : Nat) (d : Word), n % 4 = 0 → n < 64 →
    (schedule (fillBlock n (beatBytes 4 d) b)).getD (n / 4) 0 = d

/-- R80: the window invariant: before the ROUND edge with counter t, Wr[i] = Wx[t + i] for i = 0..15, and Wx agrees
with W up to index 63. Witness test_window_range. -/
def Obligations.WindowInvariant : Prop :=
  ∀ (s : State) (b : Block) (k : Nat), k < 64 →
    (roundEdge^[k] (loadEdge b s)).estate = .round ∧ (roundEdge^[k] (loadEdge b s)).t.toNat = k ∧
    (∀ i : Fin 16, (roundEdge^[k] (loadEdge b s)).wr[i] = (extendedSchedule b).getD (k + i.val) 0) ∧
    (roundEdge^[k] (loadEdge b s)).wr[0] = (schedule b).getD k 0

/-- R81: LOAD, 64 ROUND edges and ADD leave H = Compress(S, B) and the scratch zero; the working variables after k
rounds are those of Compress. Nothing but H, the scratch and BUSY has changed; BUSY stays 1 exactly when SEQ, the model's
encoding of R21 (log entry 7, DESIGN CHOICE), still holds something (R79, R117). Witness test_window_range. -/
def Obligations.DatapathComputesCompress : Prop :=
  ∀ (s : State) (b : Block),
    (∀ k, k ≤ 64 → (roundEdge^[k] (loadEdge b s)).work = roundsUpTo (schedule b) k s.h) ∧
    addEdge (roundEdge^[64] (loadEdge b s)) = { s with
      h := compress s.h b
      work := Words8.zero
      wr := Vector.replicate 16 0
      t := 0
      estate := .idle
      busy := s.seq != .nothing }

/-- R82: the words beyond the schedule reach no output: from a state in E_ROUND, what Wr holds of indices above 63 does
not matter once the ADD edge is done. Witness test_late_words. -/
def Obligations.LateScheduleWordsUnused : Prop :=
  ∀ (s : State) (wr : Vector Word 16), s.estate = .round →
    (∀ i : Fin 16, s.t.toNat + i.val ≤ 63 → s.wr[i] = wr[i]) →
    addEdge (roundEdge^[64 - s.t.toNat] { s with wr := wr }) = addEdge (roundEdge^[64 - s.t.toNat] s)

/-! ### The reference schedule against the transaction level -/

/-- R45, R81, R117: from a legal state that accepts a word, the reference schedule, without a reset meanwhile, reaches
after finitely many edges (at most 133, R118) exactly the state the step gives, whatever else the host presents. Witness
test_refine. -/
def Obligations.ReferenceScheduleRefinesStep : Prop :=
  ∀ s t : State, Legal s → NoReset s → s.accepts = true → step s = .next t →
    ∃ n, 1 ≤ n ∧ n ≤ 133 ∧ t.busy = false ∧ clockEdges n s = .next { t with inputs := s.inputs.drop n }

/-- R48, R113, R121: a host that presents the words of a sequence in order, each held until it is accepted, always comes
to the sequence's end (in the reference schedule within 133 edges a word, R118), and its result is the state that
accepting the words one after another gives at the transaction level. Witness test_sequence. -/
def Obligations.SequenceEndsAsAccepted : Prop :=
  ∀ (s : State) (ws : List CmdWord), Legal s → s.busy = false → s.inputs = [] →
    ∃ t : State, acceptAll ws s = .next t ∧ sequenceEnd (133 * ws.length) ws s = some t

/-- R117 (the reference schedule alone; no other statement rests on it): a command accepted in a legal state occupies
1, 66, 67 or 133 edges as the table says: BUSY = 1 after every earlier edge and 0 after the last. Witness
test_edges. -/
def Obligations.ReferenceEdgesOccupied : Prop :=
  ∀ (s : State) (i : Instr), Legal s → NoReset s → s.accepts = true → decode s.nextInput.cmd = .command i →
    (∃ t, clockEdges (edgesOccupied Config.refCompressCycles Config.refFinalizeTailCycles i s) s = .next t ∧
      t.busy = false) ∧
    ∀ k, 0 < k → k < edgesOccupied Config.refCompressCycles Config.refFinalizeTailCycles i s →
      ∃ t, clockEdges k s = .next t ∧ t.busy = true

/-- R118: a busy command clears BUSY after finitely many edges while rst = 0, whatever the host presents; in the
reference schedule, counted from its acceptance, at most 133, so at most 132 from any busy state. Witness
test_busy_legal. -/
def Obligations.BusyCommandEnds : Prop :=
  ∀ s : State, Legal s → NoReset s → s.busy = true →
    ∃ n t, n ≤ 132 ∧ clockEdges n s = .next t ∧ t.busy = false

/-- R119: in the reference schedule the edges a command occupies depend only on OP, LEN, bufLen and whether it errs,
and an edge's effect on BUSY, ESTATE, t and SEQ not on message bytes or H. Witness test_timing_data. -/
def Obligations.ReferenceTimingIndependentOfData : Prop :=
  (∀ (cc ft : Nat) (s s' : State) (n : BitVec 3) (d d' : Word), s.bufLen = s'.bufLen →
    (updateError n s = none ↔ updateError n s' = none) →
    edgesOccupied cc ft (.update n d) s = edgesOccupied cc ft (.update n d') s') ∧
  (∀ (cc ft : Nat) (s s' : State), s.bufLen = s'.bufLen → (finalizeError s = none ↔ finalizeError s' = none) →
    edgesOccupied cc ft .finalize s = edgesOccupied cc ft .finalize s') ∧
  (∀ s s' t t' : State, s.busy = true → s'.busy = true → s.estate = s'.estate → s.t = s'.t → s.seq = s'.seq →
    NoReset s → NoReset s' → clockEdge s = .next t → clockEdge s' = .next t' →
    t.busy = t'.busy ∧ t.estate = t'.estate ∧ t.t = t'.t ∧ t.seq = t'.seq)

/-! ### Messages -/

/-- R90: the bit length is totalLen * 8, exact up to the length limit. Witness test_bit_length. -/
def Obligations.BitLengthIsExact : Prop :=
  ∀ s : State, s.totalLen.toNat ≤ 2 ^ 61 - 1 → (bitLength s).toNat = s.totalLen.toNat * 8

/-- R94: `z` is the least number that brings N + 1 + z to 56 modulo 64, and the padded message is the message, 0x80,
z zero bytes and the 8 bytes of the bit length 8N, most significant first: one block more than N / 64, or two when
N mod 64 ≥ 56. Witness test_padding. -/
def Obligations.PaddingIsLeast : Prop :=
  ∀ m : List Byte, (m.length + 1 + padZeros m.length) % 64 = 56 ∧
    (∀ z, (m.length + 1 + z) % 64 = 56 → padZeros m.length ≤ z) ∧
    (padMessage m).length = 64 * (m.length / 64 + if m.length % 64 ≤ 55 then 1 else 2) ∧
    (∀ i, i < m.length → (padMessage m).getD i 0 = m.getD i 0) ∧
    (padMessage m).getD m.length 0 = 0x80 ∧
    (∀ i, m.length < i → i < m.length + 1 + padZeros m.length → (padMessage m).getD i 0 = 0) ∧
    (padMessage m).length = m.length + 1 + padZeros m.length + 8 ∧
    ∀ k, k < 8 →
      ((padMessage m).getD (m.length + 1 + padZeros m.length + k) 0).toNat = 8 * m.length / 256 ^ (7 - k) % 256

/-- R17, R18, R19, R20: after INIT and the beats of a message of at most MAX_MSG_BYTES bytes, from any state: totalLen
is the number of bytes sent, however they were cut; bufLen is that number modulo 64; buf holds the bytes since the last
compression, in arrival order, then zeros; H is IV with every full block compressed, in order. Witness
test_hash_beats. -/
def Obligations.ContextHoldsTheMessage : Prop :=
  ∀ (s : State) (beats : List (BitVec 3 × Word)), (∀ b ∈ beats, b.1.toNat ≤ 4) →
    (beatsMessage beats).length ≤ 2 ^ 61 - 1 →
    ∃ t : State, acceptAll ((messageCommands beats).map encode) s = .next t ∧
      t.totalLen.toNat = (beatsMessage beats).length ∧ t.bufLen.toNat = (beatsMessage beats).length % 64 ∧
      (∀ i : Fin 64, t.buf[i] =
        if i.val < (beatsMessage beats).length % 64
        then (beatsMessage beats).getD (64 * ((beatsMessage beats).length / 64) + i.val) 0 else 0) ∧
      t.h = (takeBlocks ((beatsMessage beats).length / 64) (beatsMessage beats)).foldl compress iv ∧
      t.phase = .active ∧ t.errCode = .none ∧ t.digestValid = false

/-- R94: for a message of at most MAX_MSG_BYTES bytes fed as any beats after an INIT, from any state, FINALIZE leaves
DIGEST equal to the SHA-256 digest of the message, DIGEST_VALID 1, PHASE IDLE, no error, and the context zero: H, buf,
bufLen and totalLen (R93). Witness test_hash_beats. -/
def Obligations.DigestIsSha256 : Prop :=
  ∀ (s : State) (beats : List (BitVec 3 × Word)), (∀ b ∈ beats, b.1.toNat ≤ 4) →
    (beatsMessage beats).length ≤ 2 ^ 61 - 1 →
    ∃ t : State, acceptAll ((hashCommands beats).map encode) s = .next t ∧
      t.digest = sha256 (beatsMessage beats) ∧ t.digestValid = true ∧ t.phase = .idle ∧ t.errCode = .none ∧
      t.h = Words8.zero ∧ t.buf = Vector.replicate 64 0 ∧ t.bufLen = 0 ∧ t.totalLen = 0

/-- R49: two cuts of one message into beats leave the same state after the beats and after FINALIZE, whatever the
state they start from. Witness test_two_cuts. -/
def Obligations.ChunkingInvariance : Prop :=
  ∀ (s : State) (cut cut' : List (BitVec 3 × Word)), (∀ b ∈ cut, b.1.toNat ≤ 4) → (∀ b ∈ cut', b.1.toNat ≤ 4) →
    beatsMessage cut = beatsMessage cut' → (beatsMessage cut).length ≤ 2 ^ 61 - 1 →
    (∃ t, acceptAll ((messageCommands cut).map encode) s = .next t ∧
      acceptAll ((messageCommands cut').map encode) s = .next t) ∧
    ∃ t, acceptAll ((hashCommands cut).map encode) s = .next t ∧
      acceptAll ((hashCommands cut').map encode) s = .next t

/-- R95: the number of compressions of a whole message: floor(N / 64) for the beats, and at FINALIZE 1 if
N mod 64 ≤ 55, 2 if N mod 64 ≥ 56. Witness test_hash_beats. -/
def Obligations.CompressionsPerMessage : Prop :=
  ∀ (s : State) (beats : List (BitVec 3 × Word)), (∀ b ∈ beats, b.1.toNat ≤ 4) →
    (beatsMessage beats).length ≤ 2 ^ 61 - 1 →
    compressionsInRun (messageCommands beats) s = (beatsMessage beats).length / 64 ∧
    compressionsInRun (hashCommands beats) s =
      (beatsMessage beats).length / 64 + if (beatsMessage beats).length % 64 ≤ 55 then 1 else 2

/-! ### The assembler -/

/-- R64: bytes cut into groups of four from the start: every word is a legal UPDATE of 1 to 4 bytes, every one but the
last has LEN 4, the lanes that hold no byte are 0x00, and the bytes carried are the bytes given; no bytes give no
word. -/
def Obligations.AssembledBeatsCarryBytes : Prop :=
  ∀ bs : List Byte, ∃ beats : List (BitVec 3 × Word),
    byteBeats bs = (beatCommands beats).map encode ∧ (∀ b ∈ beats, 1 ≤ b.1.toNat ∧ b.1.toNat ≤ 4) ∧
      (∀ b ∈ beats.dropLast, b.1 = 4) ∧
      (∀ b ∈ beats, ∀ j, b.1.toNat ≤ j → j < 4 → b.2.extractLsb' (24 - 8 * j) 8 = 0) ∧
      beatsMessage beats = bs ∧ (bs = [] → byteBeats bs = [])

/-- R64, R94: the words HASH.STR expands to leave the SHA-256 digest of the text's bytes, from any state. Which bytes a
text stands for is `strBytes`, in which a backslash that begins no escape stands for itself: the model's choice (log
entry 14, DESIGN CHOICE). Witness test_hash_str. -/
def Obligations.HashStrHashesText : Prop :=
  ∀ (s : State) (text : List Char) (bs : List Byte), strBytes text = some bs → bs.length ≤ 2 ^ 61 - 1 →
    ∃ ws t, AsmLine.words (.hashStr text) = some ws ∧ acceptAll ws s = .next t ∧ t.digest = sha256 bs ∧
      t.digestValid = true
end

