-- ==== Sys2Proof/Laws/State.lean ====
section
/-! SUPPORT. What each shared operation leaves in each field of the state, one lemma a field (true by rfl). -/

namespace Sys2Proof.Machine

section
variable (s : State)

@[simp] theorem popInput_h : (s.popInput).h = s.h := rfl
@[simp] theorem popInput_buf : (s.popInput).buf = s.buf := rfl
@[simp] theorem popInput_bufLen : (s.popInput).bufLen = s.bufLen := rfl
@[simp] theorem popInput_totalLen : (s.popInput).totalLen = s.totalLen := rfl
@[simp] theorem popInput_phase : (s.popInput).phase = s.phase := rfl
@[simp] theorem popInput_errCode : (s.popInput).errCode = s.errCode := rfl
@[simp] theorem popInput_digest : (s.popInput).digest = s.digest := rfl
@[simp] theorem popInput_digestValid : (s.popInput).digestValid = s.digestValid := rfl
@[simp] theorem popInput_busy : (s.popInput).busy = s.busy := rfl
@[simp] theorem popInput_work : (s.popInput).work = s.work := rfl
@[simp] theorem popInput_wr : (s.popInput).wr = s.wr := rfl
@[simp] theorem popInput_t : (s.popInput).t = s.t := rfl
@[simp] theorem popInput_estate : (s.popInput).estate = s.estate := rfl
@[simp] theorem popInput_seq : (s.popInput).seq = s.seq := rfl
@[simp] theorem popInput_inputs : (s.popInput).inputs = s.inputs.tail := rfl

@[simp] theorem zeroContext_h : (zeroContext s).h = Words8.zero := rfl
@[simp] theorem zeroContext_buf : (zeroContext s).buf = zeroBlock := rfl
@[simp] theorem zeroContext_bufLen : (zeroContext s).bufLen = 0 := rfl
@[simp] theorem zeroContext_totalLen : (zeroContext s).totalLen = 0 := rfl
@[simp] theorem zeroContext_phase : (zeroContext s).phase = s.phase := rfl
@[simp] theorem zeroContext_errCode : (zeroContext s).errCode = s.errCode := rfl
@[simp] theorem zeroContext_digest : (zeroContext s).digest = s.digest := rfl
@[simp] theorem zeroContext_digestValid : (zeroContext s).digestValid = s.digestValid := rfl
@[simp] theorem zeroContext_busy : (zeroContext s).busy = s.busy := rfl
@[simp] theorem zeroContext_work : (zeroContext s).work = s.work := rfl
@[simp] theorem zeroContext_wr : (zeroContext s).wr = s.wr := rfl
@[simp] theorem zeroContext_t : (zeroContext s).t = s.t := rfl
@[simp] theorem zeroContext_estate : (zeroContext s).estate = s.estate := rfl
@[simp] theorem zeroContext_seq : (zeroContext s).seq = s.seq := rfl
@[simp] theorem zeroContext_inputs : (zeroContext s).inputs = s.inputs := rfl

@[simp] theorem cmdError_h (c : ErrCode) : (cmdError c s).h = Words8.zero := rfl
@[simp] theorem cmdError_buf (c : ErrCode) : (cmdError c s).buf = zeroBlock := rfl
@[simp] theorem cmdError_bufLen (c : ErrCode) : (cmdError c s).bufLen = 0 := rfl
@[simp] theorem cmdError_totalLen (c : ErrCode) : (cmdError c s).totalLen = 0 := rfl
@[simp] theorem cmdError_phase (c : ErrCode) : (cmdError c s).phase = .error := rfl
@[simp] theorem cmdError_errCode (c : ErrCode) : (cmdError c s).errCode = if s.phase ≠ .error then c else s.errCode := rfl
@[simp] theorem cmdError_digest (c : ErrCode) : (cmdError c s).digest = Words8.zero := rfl
@[simp] theorem cmdError_digestValid (c : ErrCode) : (cmdError c s).digestValid = false := rfl
@[simp] theorem cmdError_busy (c : ErrCode) : (cmdError c s).busy = s.busy := rfl
@[simp] theorem cmdError_work (c : ErrCode) : (cmdError c s).work = s.work := rfl
@[simp] theorem cmdError_wr (c : ErrCode) : (cmdError c s).wr = s.wr := rfl
@[simp] theorem cmdError_t (c : ErrCode) : (cmdError c s).t = s.t := rfl
@[simp] theorem cmdError_estate (c : ErrCode) : (cmdError c s).estate = s.estate := rfl
@[simp] theorem cmdError_seq (c : ErrCode) : (cmdError c s).seq = s.seq := rfl
@[simp] theorem cmdError_inputs (c : ErrCode) : (cmdError c s).inputs = s.inputs := rfl

@[simp] theorem runEngine_h (b : Block) : (runEngine b s).h = compress s.h b := rfl
@[simp] theorem runEngine_buf (b : Block) : (runEngine b s).buf = s.buf := rfl
@[simp] theorem runEngine_bufLen (b : Block) : (runEngine b s).bufLen = s.bufLen := rfl
@[simp] theorem runEngine_totalLen (b : Block) : (runEngine b s).totalLen = s.totalLen := rfl
@[simp] theorem runEngine_phase (b : Block) : (runEngine b s).phase = s.phase := rfl
@[simp] theorem runEngine_errCode (b : Block) : (runEngine b s).errCode = s.errCode := rfl
@[simp] theorem runEngine_digest (b : Block) : (runEngine b s).digest = s.digest := rfl
@[simp] theorem runEngine_digestValid (b : Block) : (runEngine b s).digestValid = s.digestValid := rfl
@[simp] theorem runEngine_busy (b : Block) : (runEngine b s).busy = s.busy := rfl
@[simp] theorem runEngine_work (b : Block) : (runEngine b s).work = Words8.zero := rfl
@[simp] theorem runEngine_wr (b : Block) : (runEngine b s).wr = Vector.replicate 16 0 := rfl
@[simp] theorem runEngine_t (b : Block) : (runEngine b s).t = 0 := rfl
@[simp] theorem runEngine_estate (b : Block) : (runEngine b s).estate = .idle := rfl
@[simp] theorem runEngine_seq (b : Block) : (runEngine b s).seq = s.seq := rfl
@[simp] theorem runEngine_inputs (b : Block) : (runEngine b s).inputs = s.inputs := rfl

@[simp] theorem writeDigest_h : (writeDigest s).h = s.h := rfl
@[simp] theorem writeDigest_buf : (writeDigest s).buf = s.buf := rfl
@[simp] theorem writeDigest_bufLen : (writeDigest s).bufLen = s.bufLen := rfl
@[simp] theorem writeDigest_totalLen : (writeDigest s).totalLen = s.totalLen := rfl
@[simp] theorem writeDigest_phase : (writeDigest s).phase = s.phase := rfl
@[simp] theorem writeDigest_errCode : (writeDigest s).errCode = s.errCode := rfl
@[simp] theorem writeDigest_digest : (writeDigest s).digest = s.h := rfl
@[simp] theorem writeDigest_digestValid : (writeDigest s).digestValid = true := rfl
@[simp] theorem writeDigest_busy : (writeDigest s).busy = s.busy := rfl
@[simp] theorem writeDigest_work : (writeDigest s).work = s.work := rfl
@[simp] theorem writeDigest_wr : (writeDigest s).wr = s.wr := rfl
@[simp] theorem writeDigest_t : (writeDigest s).t = s.t := rfl
@[simp] theorem writeDigest_estate : (writeDigest s).estate = s.estate := rfl
@[simp] theorem writeDigest_seq : (writeDigest s).seq = s.seq := rfl
@[simp] theorem writeDigest_inputs : (writeDigest s).inputs = s.inputs := rfl

@[simp] theorem loadEdge_h (b : Block) : (loadEdge b s).h = s.h := rfl
@[simp] theorem loadEdge_buf (b : Block) : (loadEdge b s).buf = s.buf := rfl
@[simp] theorem loadEdge_bufLen (b : Block) : (loadEdge b s).bufLen = s.bufLen := rfl
@[simp] theorem loadEdge_totalLen (b : Block) : (loadEdge b s).totalLen = s.totalLen := rfl
@[simp] theorem loadEdge_phase (b : Block) : (loadEdge b s).phase = s.phase := rfl
@[simp] theorem loadEdge_errCode (b : Block) : (loadEdge b s).errCode = s.errCode := rfl
@[simp] theorem loadEdge_digest (b : Block) : (loadEdge b s).digest = s.digest := rfl
@[simp] theorem loadEdge_digestValid (b : Block) : (loadEdge b s).digestValid = s.digestValid := rfl
@[simp] theorem loadEdge_busy (b : Block) : (loadEdge b s).busy = true := rfl
@[simp] theorem loadEdge_work (b : Block) : (loadEdge b s).work = s.h := rfl
@[simp] theorem loadEdge_wr (b : Block) : (loadEdge b s).wr = blockWords b := rfl
@[simp] theorem loadEdge_t (b : Block) : (loadEdge b s).t = 0 := rfl
@[simp] theorem loadEdge_estate (b : Block) : (loadEdge b s).estate = .round := rfl
@[simp] theorem loadEdge_seq (b : Block) : (loadEdge b s).seq = s.seq := rfl
@[simp] theorem loadEdge_inputs (b : Block) : (loadEdge b s).inputs = s.inputs := rfl

@[simp] theorem roundEdge_h : (roundEdge s).h = s.h := rfl
@[simp] theorem roundEdge_buf : (roundEdge s).buf = s.buf := rfl
@[simp] theorem roundEdge_bufLen : (roundEdge s).bufLen = s.bufLen := rfl
@[simp] theorem roundEdge_totalLen : (roundEdge s).totalLen = s.totalLen := rfl
@[simp] theorem roundEdge_phase : (roundEdge s).phase = s.phase := rfl
@[simp] theorem roundEdge_errCode : (roundEdge s).errCode = s.errCode := rfl
@[simp] theorem roundEdge_digest : (roundEdge s).digest = s.digest := rfl
@[simp] theorem roundEdge_digestValid : (roundEdge s).digestValid = s.digestValid := rfl
@[simp] theorem roundEdge_busy : (roundEdge s).busy = s.busy := rfl
@[simp] theorem roundEdge_work : (roundEdge s).work = roundStep (kWord s.t.toNat) s.wr[0] s.work := rfl
@[simp] theorem roundEdge_wr : (roundEdge s).wr = shiftWindow s.wr := rfl
@[simp] theorem roundEdge_t : (roundEdge s).t = if s.t = 63 then 0 else s.t + 1 := rfl
@[simp] theorem roundEdge_estate : (roundEdge s).estate = if s.t = 63 then .add else .round := rfl
@[simp] theorem roundEdge_seq : (roundEdge s).seq = s.seq := rfl
@[simp] theorem roundEdge_inputs : (roundEdge s).inputs = s.inputs := rfl

@[simp] theorem addEdge_h : (addEdge s).h = s.h.add s.work := rfl
@[simp] theorem addEdge_buf : (addEdge s).buf = s.buf := rfl
@[simp] theorem addEdge_bufLen : (addEdge s).bufLen = s.bufLen := rfl
@[simp] theorem addEdge_totalLen : (addEdge s).totalLen = s.totalLen := rfl
@[simp] theorem addEdge_phase : (addEdge s).phase = s.phase := rfl
@[simp] theorem addEdge_errCode : (addEdge s).errCode = s.errCode := rfl
@[simp] theorem addEdge_digest : (addEdge s).digest = s.digest := rfl
@[simp] theorem addEdge_digestValid : (addEdge s).digestValid = s.digestValid := rfl
@[simp] theorem addEdge_busy : (addEdge s).busy = (s.seq != .nothing) := rfl
@[simp] theorem addEdge_work : (addEdge s).work = Words8.zero := rfl
@[simp] theorem addEdge_wr : (addEdge s).wr = Vector.replicate 16 0 := rfl
@[simp] theorem addEdge_t : (addEdge s).t = 0 := rfl
@[simp] theorem addEdge_estate : (addEdge s).estate = .idle := rfl
@[simp] theorem addEdge_seq : (addEdge s).seq = s.seq := rfl
@[simp] theorem addEdge_inputs : (addEdge s).inputs = s.inputs := rfl

@[simp] theorem lengthBlockEdge_h : (lengthBlockEdge s).h = s.h := rfl
@[simp] theorem lengthBlockEdge_buf : (lengthBlockEdge s).buf = s.buf := rfl
@[simp] theorem lengthBlockEdge_bufLen : (lengthBlockEdge s).bufLen = s.bufLen := rfl
@[simp] theorem lengthBlockEdge_totalLen : (lengthBlockEdge s).totalLen = s.totalLen := rfl
@[simp] theorem lengthBlockEdge_phase : (lengthBlockEdge s).phase = s.phase := rfl
@[simp] theorem lengthBlockEdge_errCode : (lengthBlockEdge s).errCode = s.errCode := rfl
@[simp] theorem lengthBlockEdge_digest : (lengthBlockEdge s).digest = s.digest := rfl
@[simp] theorem lengthBlockEdge_digestValid : (lengthBlockEdge s).digestValid = s.digestValid := rfl
@[simp] theorem lengthBlockEdge_busy : (lengthBlockEdge s).busy = true := rfl
@[simp] theorem lengthBlockEdge_work : (lengthBlockEdge s).work = s.h := rfl
@[simp] theorem lengthBlockEdge_wr : (lengthBlockEdge s).wr = blockWords (withLength (bitLength s) zeroBlock) := rfl
@[simp] theorem lengthBlockEdge_t : (lengthBlockEdge s).t = 0 := rfl
@[simp] theorem lengthBlockEdge_estate : (lengthBlockEdge s).estate = .round := rfl
@[simp] theorem lengthBlockEdge_seq : (lengthBlockEdge s).seq = .digest := rfl
@[simp] theorem lengthBlockEdge_inputs : (lengthBlockEdge s).inputs = s.inputs := rfl

@[simp] theorem tailEdge_h : (tailEdge s).h = Words8.zero := rfl
@[simp] theorem tailEdge_buf : (tailEdge s).buf = zeroBlock := rfl
@[simp] theorem tailEdge_bufLen : (tailEdge s).bufLen = 0 := rfl
@[simp] theorem tailEdge_totalLen : (tailEdge s).totalLen = 0 := rfl
@[simp] theorem tailEdge_phase : (tailEdge s).phase = .idle := rfl
@[simp] theorem tailEdge_errCode : (tailEdge s).errCode = s.errCode := rfl
@[simp] theorem tailEdge_digest : (tailEdge s).digest = s.h := rfl
@[simp] theorem tailEdge_digestValid : (tailEdge s).digestValid = true := rfl
@[simp] theorem tailEdge_busy : (tailEdge s).busy = false := rfl
@[simp] theorem tailEdge_work : (tailEdge s).work = s.work := rfl
@[simp] theorem tailEdge_wr : (tailEdge s).wr = s.wr := rfl
@[simp] theorem tailEdge_t : (tailEdge s).t = s.t := rfl
@[simp] theorem tailEdge_estate : (tailEdge s).estate = s.estate := rfl
@[simp] theorem tailEdge_seq : (tailEdge s).seq = .nothing := rfl
@[simp] theorem tailEdge_inputs : (tailEdge s).inputs = s.inputs := rfl

@[simp] theorem resetEdge_h : (resetEdge s).h = State.reset.h := rfl
@[simp] theorem resetEdge_buf : (resetEdge s).buf = State.reset.buf := rfl
@[simp] theorem resetEdge_bufLen : (resetEdge s).bufLen = State.reset.bufLen := rfl
@[simp] theorem resetEdge_totalLen : (resetEdge s).totalLen = State.reset.totalLen := rfl
@[simp] theorem resetEdge_phase : (resetEdge s).phase = State.reset.phase := rfl
@[simp] theorem resetEdge_errCode : (resetEdge s).errCode = State.reset.errCode := rfl
@[simp] theorem resetEdge_digest : (resetEdge s).digest = State.reset.digest := rfl
@[simp] theorem resetEdge_digestValid : (resetEdge s).digestValid = State.reset.digestValid := rfl
@[simp] theorem resetEdge_busy : (resetEdge s).busy = State.reset.busy := rfl
@[simp] theorem resetEdge_work : (resetEdge s).work = State.reset.work := rfl
@[simp] theorem resetEdge_wr : (resetEdge s).wr = State.reset.wr := rfl
@[simp] theorem resetEdge_t : (resetEdge s).t = State.reset.t := rfl
@[simp] theorem resetEdge_estate : (resetEdge s).estate = State.reset.estate := rfl
@[simp] theorem resetEdge_seq : (resetEdge s).seq = State.reset.seq := rfl
@[simp] theorem resetEdge_inputs : (resetEdge s).inputs = s.inputs := rfl

@[simp] theorem withFetchWord_h (n w : Nat) : (s.withFetchWord n w).h = s.h := rfl
@[simp] theorem withFetchWord_buf (n w : Nat) : (s.withFetchWord n w).buf = s.buf := rfl
@[simp] theorem withFetchWord_bufLen (n w : Nat) : (s.withFetchWord n w).bufLen = s.bufLen := rfl
@[simp] theorem withFetchWord_totalLen (n w : Nat) : (s.withFetchWord n w).totalLen = s.totalLen := rfl
@[simp] theorem withFetchWord_phase (n w : Nat) : (s.withFetchWord n w).phase = s.phase := rfl
@[simp] theorem withFetchWord_errCode (n w : Nat) : (s.withFetchWord n w).errCode = s.errCode := rfl
@[simp] theorem withFetchWord_digest (n w : Nat) : (s.withFetchWord n w).digest = s.digest := rfl
@[simp] theorem withFetchWord_digestValid (n w : Nat) : (s.withFetchWord n w).digestValid = s.digestValid := rfl
@[simp] theorem withFetchWord_busy (n w : Nat) : (s.withFetchWord n w).busy = false := rfl
@[simp] theorem withFetchWord_work (n w : Nat) : (s.withFetchWord n w).work = s.work := rfl
@[simp] theorem withFetchWord_wr (n w : Nat) : (s.withFetchWord n w).wr = s.wr := rfl
@[simp] theorem withFetchWord_t (n w : Nat) : (s.withFetchWord n w).t = s.t := rfl
@[simp] theorem withFetchWord_estate (n w : Nat) : (s.withFetchWord n w).estate = s.estate := rfl
@[simp] theorem withFetchWord_seq (n w : Nat) : (s.withFetchWord n w).seq = s.seq := rfl
@[simp] theorem withFetchWord_inputs (n w : Nat) :
    (s.withFetchWord n w).inputs = Input.present (BitVec.ofNat 40 (w % 2 ^ n)) :: s.inputs := rfl

end

end Sys2Proof.Machine
end

