-- ==== Sys2Proof/Laws/Ops.lean ====
section
/-! SUPPORT. What the shared operations do, once: blocks byte by byte, absorbing a run of bytes, padding and the two
shapes of a FINALIZE (rules R87, R91). Cite these instead of unfolding the operations. -/

namespace Sys2Proof.Machine

/-! ### Blocks byte by byte -/

@[simp] theorem zeroBlock_get (i : Nat) (h : i < 64) : zeroBlock[i] = 0 := by
  simp [zeroBlock]

@[simp] theorem fillBlock_get (n : Nat) (ms : List Byte) (b : Block) (i : Nat) (h : i < 64) :
    (fillBlock n ms b)[i] = if n ≤ i ∧ i < n + ms.length then ms.getD (i - n) 0 else b[i] := by
  simp [fillBlock]

@[simp] theorem padMark_get (n : Nat) (b : Block) (i : Nat) (h : i < 64) :
    (padMark n b)[i] = if i < n then b[i] else if i = n then 0x80 else 0 := by
  simp [padMark]

@[simp] theorem withLength_get (l : BitVec 64) (b : Block) (i : Nat) (h : i < 64) :
    (withLength l b)[i] = if i < 56 then b[i] else be64Byte l (i - 56) := by
  simp [withLength]

theorem fillBlock_nil (n : Nat) (b : Block) : fillBlock n [] b = b := by
  apply Vector.ext
  intro i h
  simp only [fillBlock_get, List.length_nil, Nat.add_zero]
  rw [if_neg (by omega)]

/-- Placing a byte and then the rest is placing them all. -/
theorem fillBlock_cons (n : Nat) (hn : n < 64) (m : Byte) (ms : List Byte) (b : Block) :
    fillBlock (n + 1) ms (b.set n m hn) = fillBlock n (m :: ms) b := by
  apply Vector.ext
  intro i h
  simp only [fillBlock_get, List.length_cons, Vector.getElem_set]
  by_cases hi : n = i
  · subst hi
    rw [if_neg (by omega), if_pos rfl, if_pos (by omega)]
    simp
  · by_cases h1 : n + 1 ≤ i ∧ i < n + 1 + ms.length
    · rw [if_pos h1, if_pos (by omega)]
      obtain ⟨k, hk⟩ : ∃ k, i - n = k + 1 := ⟨i - n - 1, by omega⟩
      rw [hk, show i - (n + 1) = k by omega]
      simp
    · rw [if_neg h1, if_neg hi, if_neg (by omega)]

/-! ### The operands of UPDATE -/

@[simp] theorem beatBytes_length (n : BitVec 3) (d : Word) : (beatBytes n d).length = n.toNat := by
  simp [beatBytes]

theorem beatBytes_getD (n : BitVec 3) (d : Word) (j : Nat) (h : j < n.toNat) :
    (beatBytes n d).getD j 0 = beatByte d j := by
  simp [beatBytes, List.getD, h]

/-! ### Absorbing bytes (R87) -/

theorem absorb_within (m : Byte) (s : State) (h : s.bufLen.toNat + 1 < 64) :
    absorb m s = { s with buf := fillBlock s.bufLen.toNat [m] s.buf, bufLen := s.bufLen + 1 } := by
  unfold absorb
  rw [if_neg (by simp only [Config.blockBytes]; omega)]
  simp only [← fillBlock_cons s.bufLen.toNat s.bufLen.isLt m [] s.buf, fillBlock_nil]

theorem absorb_full (m : Byte) (s : State) (h : s.bufLen.toNat = 63) :
    absorb m s = { runEngine (fillBlock s.bufLen.toNat [m] s.buf) s with buf := zeroBlock, bufLen := 0 } := by
  unfold absorb
  rw [if_pos (by simp only [Config.blockBytes]; omega)]
  simp only [← fillBlock_cons s.bufLen.toNat s.bufLen.isLt m [] s.buf, fillBlock_nil]

@[simp] theorem absorbAll_nil (s : State) : absorbAll [] s = s := rfl

@[simp] theorem absorbAll_cons (m : Byte) (ms : List Byte) (s : State) :
    absorbAll (m :: ms) s = absorbAll ms (absorb m s) := rfl

theorem absorbAll_append (ms ms' : List Byte) (s : State) :
    absorbAll (ms ++ ms') s = absorbAll ms' (absorbAll ms s) := by
  simp [absorbAll, List.foldl_append]

/-- Bytes that do not fill the buffer are placed from index bufLen on; nothing else happens. -/
theorem absorbAll_within (ms : List Byte) (s : State) (h : s.bufLen.toNat + ms.length < 64) :
    absorbAll ms s =
      { s with
        buf := fillBlock s.bufLen.toNat ms s.buf
        bufLen := BitVec.ofNat 6 (s.bufLen.toNat + ms.length) } := by
  induction ms generalizing s with
  | nil => simp [fillBlock_nil]
  | cons m ms ih =>
    simp only [List.length_cons] at h
    have hn : (s.bufLen + 1).toNat = s.bufLen.toNat + 1 := by
      rw [BitVec.toNat_add]; simp; omega
    rw [absorbAll_cons, absorb_within m s (by omega), ih _ (by rw [hn]; omega)]
    simp only [hn, ← fillBlock_cons s.bufLen.toNat s.bufLen.isLt m [] s.buf, fillBlock_nil,
      fillBlock_cons s.bufLen.toNat s.bufLen.isLt m ms s.buf, List.length_cons]
    congr 2; omega

/-- Bytes that fill the buffer exactly: one compression, the buffer cleared. -/
theorem absorbAll_full (ms : List Byte) (s : State) (hms : ms ≠ []) (h : s.bufLen.toNat + ms.length = 64) :
    absorbAll ms s =
      { runEngine (fillBlock s.bufLen.toNat ms s.buf) s with buf := zeroBlock, bufLen := 0 } := by
  induction ms generalizing s with
  | nil => exact absurd rfl hms
  | cons m ms ih =>
    simp only [List.length_cons] at h
    by_cases hm : ms = []
    · subst hm
      rw [absorbAll_cons, absorbAll_nil]
      exact absorb_full m s (by simp at h; omega)
    · have hpos : 0 < ms.length := List.length_pos_iff.2 hm
      have hn : (s.bufLen + 1).toNat = s.bufLen.toNat + 1 := by
        rw [BitVec.toNat_add]; simp; omega
      rw [absorbAll_cons, absorb_within m s (by omega), ih _ hm (by rw [hn]; omega)]
      simp only [hn, ← fillBlock_cons s.bufLen.toNat s.bufLen.isLt m [] s.buf, fillBlock_nil,
        fillBlock_cons s.bufLen.toNat s.bufLen.isLt m ms s.buf, runEngine]

/-- Bytes that reach the block boundary, fewer than a block of them: the first complete the block, which is compressed,
the others start the next one. -/
theorem absorbAll_across (ms : List Byte) (s : State) (h : 64 ≤ s.bufLen.toNat + ms.length) (hms : ms.length < 64) :
    absorbAll ms s =
      { runEngine (fillBlock s.bufLen.toNat (ms.take (64 - s.bufLen.toNat)) s.buf) s with
        buf := fillBlock 0 (ms.drop (64 - s.bufLen.toNat)) zeroBlock
        bufLen := BitVec.ofNat 6 (ms.length - (64 - s.bufLen.toNat)) } := by
  have hlt := s.bufLen.isLt
  have hlen : (ms.take (64 - s.bufLen.toNat)).length = 64 - s.bufLen.toNat := by
    rw [List.length_take]; omega
  have hne : ms.take (64 - s.bufLen.toNat) ≠ [] := by
    intro h0; rw [h0] at hlen; simp at hlen; omega
  conv_lhs => rw [← List.take_append_drop (64 - s.bufLen.toNat) ms]
  rw [absorbAll_append, absorbAll_full _ s hne (by omega), absorbAll_within _ _ (by simp; omega)]
  simp

/-! ### Padding (R91) -/

/-- FINALIZE's padding when the length fits the block. -/
theorem padAndCompress_one (l : BitVec 64) (s : State) (h : s.bufLen.toNat < 56) :
    padAndCompress l s =
      runEngine (withLength l (padMark s.bufLen.toNat s.buf))
        { s with buf := withLength l (padMark s.bufLen.toNat s.buf) } := by
  unfold padAndCompress
  simp only [if_neg (Nat.not_le.2 h)]

/-- FINALIZE's padding when the length needs a block of its own. -/
theorem padAndCompress_two (l : BitVec 64) (s : State) (h : 56 ≤ s.bufLen.toNat) :
    padAndCompress l s =
      runEngine (withLength l zeroBlock)
        { runEngine (padMark s.bufLen.toNat s.buf) s with buf := withLength l zeroBlock } := by
  unfold padAndCompress
  simp only [if_pos h, runEngine]

/-! ### What absorbing and padding leave alone -/

section
variable (s : State)

@[simp] theorem absorb_totalLen (m : Byte) : (absorb m s).totalLen = s.totalLen := by
  unfold absorb; split <;> rfl

@[simp] theorem absorbAll_totalLen (ms : List Byte) : (absorbAll ms s).totalLen = s.totalLen := by
  induction ms generalizing s with
  | nil => rfl
  | cons m ms ih => rw [absorbAll_cons, ih, absorb_totalLen]

@[simp] theorem absorb_phase (m : Byte) : (absorb m s).phase = s.phase := by
  unfold absorb; split <;> rfl

@[simp] theorem absorbAll_phase (ms : List Byte) : (absorbAll ms s).phase = s.phase := by
  induction ms generalizing s with
  | nil => rfl
  | cons m ms ih => rw [absorbAll_cons, ih, absorb_phase]

@[simp] theorem absorb_errCode (m : Byte) : (absorb m s).errCode = s.errCode := by
  unfold absorb; split <;> rfl

@[simp] theorem absorbAll_errCode (ms : List Byte) : (absorbAll ms s).errCode = s.errCode := by
  induction ms generalizing s with
  | nil => rfl
  | cons m ms ih => rw [absorbAll_cons, ih, absorb_errCode]

@[simp] theorem absorb_digest (m : Byte) : (absorb m s).digest = s.digest := by
  unfold absorb; split <;> rfl

@[simp] theorem absorbAll_digest (ms : List Byte) : (absorbAll ms s).digest = s.digest := by
  induction ms generalizing s with
  | nil => rfl
  | cons m ms ih => rw [absorbAll_cons, ih, absorb_digest]

@[simp] theorem absorb_digestValid (m : Byte) : (absorb m s).digestValid = s.digestValid := by
  unfold absorb; split <;> rfl

@[simp] theorem absorbAll_digestValid (ms : List Byte) : (absorbAll ms s).digestValid = s.digestValid := by
  induction ms generalizing s with
  | nil => rfl
  | cons m ms ih => rw [absorbAll_cons, ih, absorb_digestValid]

@[simp] theorem absorb_busy (m : Byte) : (absorb m s).busy = s.busy := by
  unfold absorb; split <;> rfl

@[simp] theorem absorbAll_busy (ms : List Byte) : (absorbAll ms s).busy = s.busy := by
  induction ms generalizing s with
  | nil => rfl
  | cons m ms ih => rw [absorbAll_cons, ih, absorb_busy]

@[simp] theorem absorb_seq (m : Byte) : (absorb m s).seq = s.seq := by
  unfold absorb; split <;> rfl

@[simp] theorem absorbAll_seq (ms : List Byte) : (absorbAll ms s).seq = s.seq := by
  induction ms generalizing s with
  | nil => rfl
  | cons m ms ih => rw [absorbAll_cons, ih, absorb_seq]

@[simp] theorem absorb_inputs (m : Byte) : (absorb m s).inputs = s.inputs := by
  unfold absorb; split <;> rfl

@[simp] theorem absorbAll_inputs (ms : List Byte) : (absorbAll ms s).inputs = s.inputs := by
  induction ms generalizing s with
  | nil => rfl
  | cons m ms ih => rw [absorbAll_cons, ih, absorb_inputs]

@[simp] theorem padAndCompress_bufLen (l : BitVec 64) : (padAndCompress l s).bufLen = s.bufLen := by
  unfold padAndCompress; split <;> rfl

@[simp] theorem padAndCompress_totalLen (l : BitVec 64) : (padAndCompress l s).totalLen = s.totalLen := by
  unfold padAndCompress; split <;> rfl

@[simp] theorem padAndCompress_phase (l : BitVec 64) : (padAndCompress l s).phase = s.phase := by
  unfold padAndCompress; split <;> rfl

@[simp] theorem padAndCompress_errCode (l : BitVec 64) : (padAndCompress l s).errCode = s.errCode := by
  unfold padAndCompress; split <;> rfl

@[simp] theorem padAndCompress_digest (l : BitVec 64) : (padAndCompress l s).digest = s.digest := by
  unfold padAndCompress; split <;> rfl

@[simp] theorem padAndCompress_digestValid (l : BitVec 64) : (padAndCompress l s).digestValid = s.digestValid := by
  unfold padAndCompress; split <;> rfl

@[simp] theorem padAndCompress_busy (l : BitVec 64) : (padAndCompress l s).busy = s.busy := by
  unfold padAndCompress; split <;> rfl

@[simp] theorem padAndCompress_seq (l : BitVec 64) : (padAndCompress l s).seq = s.seq := by
  unfold padAndCompress; split <;> rfl

@[simp] theorem padAndCompress_inputs (l : BitVec 64) : (padAndCompress l s).inputs = s.inputs := by
  unfold padAndCompress; split <;> rfl

@[simp] theorem padAndCompress_work (l : BitVec 64) : (padAndCompress l s).work = Words8.zero := rfl

@[simp] theorem padAndCompress_wr (l : BitVec 64) : (padAndCompress l s).wr = Vector.replicate 16 0 := rfl

@[simp] theorem padAndCompress_t (l : BitVec 64) : (padAndCompress l s).t = 0 := rfl

@[simp] theorem padAndCompress_estate (l : BitVec 64) : (padAndCompress l s).estate = .idle := rfl

end

end Sys2Proof.Machine
end

