-- ==== Sys2Proof/Laws/PerInstr.lean ====
section
/-! SUPPORT. A law stated command by command: the fields of a command's word (rules R56, R57, R61). -/

namespace Sys2Proof.Laws.OpField

/-- The word of a command carries its operation code in OP and a zero reserved bit; every command but UPDATE leaves the
36 bits below OP zero, and UPDATE's operands stand in LEN and DATA. -/
def Statement (i : Instr) : Prop :=
  opField (encode i) = i.opcode ∧ rsvField (encode i) = 0 ∧
    match i with
    | .nop => restField (encode i) = 0
    | .init => restField (encode i) = 0
    | .update len data => lenField (encode i) = len ∧ dataField (encode i) = data
    | .finalize => restField (encode i) = 0

theorem nop : Statement .nop := by unfold Statement; decide

theorem init : Statement .init := by unfold Statement; decide

theorem update (len : BitVec 3) (data : Word) : Statement (.update len data) := by
  refine ⟨?_, ?_, ?_, ?_⟩ <;> apply BitVec.eq_of_getLsbD_eq <;> intro i hi <;>
    simp only [opField, rsvField, lenField, dataField, encode, Instr.opcode, BitVec.getLsbD_extractLsb', BitVec.getLsbD_append]
  · rw [if_neg (by omega), if_neg (by omega), if_neg (by omega)]
    simp only [hi, decide_true, Bool.true_and]
    congr 1; omega
  · rw [if_neg (by omega), if_neg (by omega), if_pos (by omega)]
    simp
  · rw [if_neg (by omega), if_pos (by omega)]
    simp only [hi, decide_true, Bool.true_and]
    congr 1; omega
  · rw [if_pos (by omega)]
    simp [hi]

theorem finalize : Statement .finalize := by unfold Statement; decide

end Sys2Proof.Laws.OpField
end

