-- ==== Sys2Proof/Laws/Step.lean ====
section
/-! SUPPORT. What an edge, the acceptance of a word and a busy edge can do, once each: the inversion lemmas that every
proof about a step starts from (rules R55, R77 to R79, R83, R110, R117). -/

namespace Sys2Proof.Machine

/-! ### What each command leaves in each field -/

section
variable (s : State)

@[simp] theorem initContext_h : (initContext s).h = iv := rfl
@[simp] theorem initContext_buf : (initContext s).buf = zeroBlock := rfl
@[simp] theorem initContext_bufLen : (initContext s).bufLen = 0 := rfl
@[simp] theorem initContext_totalLen : (initContext s).totalLen = 0 := rfl
@[simp] theorem initContext_phase : (initContext s).phase = .active := rfl
@[simp] theorem initContext_errCode : (initContext s).errCode = .none := rfl
@[simp] theorem initContext_digest : (initContext s).digest = Words8.zero := rfl
@[simp] theorem initContext_digestValid : (initContext s).digestValid = false := rfl
@[simp] theorem initContext_busy : (initContext s).busy = s.busy := rfl
@[simp] theorem initContext_work : (initContext s).work = s.work := rfl
@[simp] theorem initContext_wr : (initContext s).wr = s.wr := rfl
@[simp] theorem initContext_t : (initContext s).t = s.t := rfl
@[simp] theorem initContext_estate : (initContext s).estate = s.estate := rfl
@[simp] theorem initContext_seq : (initContext s).seq = s.seq := rfl
@[simp] theorem initContext_inputs : (initContext s).inputs = s.inputs := rfl

@[simp] theorem finalizeContext_h : (finalizeContext s).h = Words8.zero := rfl
@[simp] theorem finalizeContext_buf : (finalizeContext s).buf = zeroBlock := rfl
@[simp] theorem finalizeContext_bufLen : (finalizeContext s).bufLen = 0 := rfl
@[simp] theorem finalizeContext_totalLen : (finalizeContext s).totalLen = 0 := rfl
@[simp] theorem finalizeContext_phase : (finalizeContext s).phase = .idle := rfl
@[simp] theorem finalizeContext_errCode : (finalizeContext s).errCode = s.errCode := padAndCompress_errCode s (bitLength s)
@[simp] theorem finalizeContext_digest : (finalizeContext s).digest = (padAndCompress (bitLength s) s).h := rfl
@[simp] theorem finalizeContext_digestValid : (finalizeContext s).digestValid = true := rfl
@[simp] theorem finalizeContext_busy : (finalizeContext s).busy = s.busy := padAndCompress_busy s (bitLength s)
@[simp] theorem finalizeContext_work : (finalizeContext s).work = Words8.zero := rfl
@[simp] theorem finalizeContext_wr : (finalizeContext s).wr = Vector.replicate 16 0 := rfl
@[simp] theorem finalizeContext_t : (finalizeContext s).t = 0 := rfl
@[simp] theorem finalizeContext_estate : (finalizeContext s).estate = .idle := rfl
@[simp] theorem finalizeContext_seq : (finalizeContext s).seq = s.seq := padAndCompress_seq s (bitLength s)
@[simp] theorem finalizeContext_inputs : (finalizeContext s).inputs = s.inputs := padAndCompress_inputs s (bitLength s)

@[simp] theorem updateContext_phase (n : BitVec 3) (d : Word) : (updateContext n d s).phase = s.phase :=
  absorbAll_phase s (beatBytes n d)
@[simp] theorem updateContext_errCode (n : BitVec 3) (d : Word) : (updateContext n d s).errCode = s.errCode :=
  absorbAll_errCode s (beatBytes n d)
@[simp] theorem updateContext_digest (n : BitVec 3) (d : Word) : (updateContext n d s).digest = s.digest :=
  absorbAll_digest s (beatBytes n d)
@[simp] theorem updateContext_digestValid (n : BitVec 3) (d : Word) : (updateContext n d s).digestValid = s.digestValid :=
  absorbAll_digestValid s (beatBytes n d)
@[simp] theorem updateContext_busy (n : BitVec 3) (d : Word) : (updateContext n d s).busy = s.busy :=
  absorbAll_busy s (beatBytes n d)
@[simp] theorem updateContext_seq (n : BitVec 3) (d : Word) : (updateContext n d s).seq = s.seq :=
  absorbAll_seq s (beatBytes n d)
@[simp] theorem updateContext_inputs (n : BitVec 3) (d : Word) : (updateContext n d s).inputs = s.inputs :=
  absorbAll_inputs s (beatBytes n d)
@[simp] theorem updateContext_totalLen (n : BitVec 3) (d : Word) :
    (updateContext n d s).totalLen = s.totalLen + n.setWidth 64 := rfl

end

/-! ### Commands -/

/-- What an UPDATE without error leaves when its bytes do not fill the buffer. -/
theorem updateContext_within (n : BitVec 3) (d : Word) (s : State) (h : s.bufLen.toNat + n.toNat < 64) :
    updateContext n d s =
      { s with
        buf := fillBlock s.bufLen.toNat (beatBytes n d) s.buf
        bufLen := BitVec.ofNat 6 (s.bufLen.toNat + n.toNat)
        totalLen := s.totalLen + n.setWidth 64 } := by
  unfold updateContext
  rw [absorbAll_within _ _ (by simpa using h)]
  simp

/-- What an UPDATE without error leaves when its bytes reach the block boundary. -/
theorem updateContext_across (n : BitVec 3) (d : Word) (s : State) (h : 64 ≤ s.bufLen.toNat + n.toNat) :
    updateContext n d s =
      { runEngine (fillBlock s.bufLen.toNat ((beatBytes n d).take (64 - s.bufLen.toNat)) s.buf) s with
        buf := fillBlock 0 ((beatBytes n d).drop (64 - s.bufLen.toNat)) zeroBlock
        bufLen := BitVec.ofNat 6 (n.toNat - (64 - s.bufLen.toNat))
        totalLen := s.totalLen + n.setWidth 64 } := by
  have hn := n.isLt
  unfold updateContext
  rw [absorbAll_across _ _ (by simpa using h) (by simp; omega)]
  simp

/-- A command does nothing but take its error or have its effect. -/
theorem exec_update (n : BitVec 3) (d : Word) (s : State) :
    exec (.update n d) s =
      .next (match updateError n s with | some c => cmdError c s | none => updateContext n d s) := by
  show execUpdate n d s = _
  unfold execUpdate
  cases updateError n s <;> rfl

theorem exec_finalize (s : State) :
    exec .finalize s = .next (match finalizeError s with | some c => cmdError c s | none => finalizeContext s) := by
  show execFinalize s = _
  unfold execFinalize
  cases finalizeError s <;> rfl

/-! ### The acceptance of a word (R83) -/

/-- Everything the acceptance of a word can leave: the error entry, or the effect of its command. -/
theorem acceptWord_cases {w : CmdWord} {s t : State} (h : acceptWord w s = .next t) :
    (∃ c, wordError w s = some c ∧ t = cmdError c s) ∨
    (wordError w s = none ∧
      (decode w = .command .nop ∧ t = s ∨
        decode w = .command .init ∧ t = initContext s ∨
        (∃ n d, decode w = .command (.update n d) ∧ updateError n s = none ∧ t = updateContext n d s) ∨
        decode w = .command .finalize ∧ finalizeError s = none ∧ t = finalizeContext s)) := by
  unfold acceptWord at h
  unfold wordError
  rcases hd : decode w with i | e
  · rw [hd] at h
    rcases i with _ | _ | ⟨n, d⟩ | _
    · obtain rfl : s = t := by simpa [exec, execNop] using h
      exact .inr ⟨rfl, .inl ⟨rfl, rfl⟩⟩
    · obtain rfl : initContext s = t := by simpa [exec, execInit] using h
      exact .inr ⟨rfl, .inr (.inl ⟨rfl, rfl⟩)⟩
    · simp only [exec_update, Host.Outcome.next.injEq] at h
      rcases he : updateError n s with _ | c
      · rw [he] at h
        exact .inr ⟨he, .inr (.inr (.inl ⟨n, d, rfl, he, h.symm⟩))⟩
      · rw [he] at h
        exact .inl ⟨c, he, h.symm⟩
    · simp only [exec_finalize, Host.Outcome.next.injEq] at h
      rcases he : finalizeError s with _ | c
      · rw [he] at h
        exact .inr ⟨rfl, .inr (.inr (.inr ⟨rfl, rfl, h.symm⟩))⟩
      · rw [he] at h
        exact .inl ⟨c, rfl, h.symm⟩
  · rw [hd] at h
    simp only [Host.Outcome.next.injEq] at h
    exact .inl ⟨_, rfl, h.symm⟩

/-! ### Edges -/

/-- Everything an edge can do at either level. -/
theorem edgeWith_cases {accept : CmdWord → State → Host.Outcome State Fault Refusal} {s : State} {o}
    (h : edgeWith accept s = o) :
    (s.nextInput.rst = true ∧ o = .next (resetEdge s.popInput)) ∨
    (s.nextInput.rst = false ∧ s.busy = true ∧ o = busyEdge s.popInput) ∨
    (s.nextInput.rst = false ∧ s.busy = false ∧ s.nextInput.cmdValid = true ∧
      o = accept s.nextInput.cmd s.popInput) ∨
    (s.nextInput.rst = false ∧ s.busy = false ∧ s.nextInput.cmdValid = false ∧ o = .next s.popInput) := by
  subst h
  unfold edgeWith
  cases s.nextInput.rst <;> cases s.busy <;> cases s.nextInput.cmdValid <;> simp

/-- Everything a busy edge can leave. -/
theorem busyEdge_cases {s t : State} (h : busyEdge s = .next t) :
    (s.estate = .round ∧ t = roundEdge s) ∨ (s.estate = .add ∧ t = addEdge s) ∨
    (s.estate = .idle ∧ s.seq = .lengthBlock ∧ t = lengthBlockEdge s) ∨
    (s.estate = .idle ∧ s.seq = .digest ∧ t = tailEdge s) := by
  unfold busyEdge at h
  rcases he : s.estate with _ | _ | _ <;> rcases hq : s.seq with _ | _ | _ <;> rw [he, hq] at h <;>
    simp_all

/-- Acceptance is a valid word at an edge with rst = 0 and BUSY = 0 (R55). -/
theorem accepts_iff (s : State) :
    s.accepts = true ↔ s.nextInput.rst = false ∧ s.busy = false ∧ s.nextInput.cmdValid = true := by
  unfold State.accepts State.cmdReady
  cases s.nextInput.rst <;> cases s.busy <;> cases s.nextInput.cmdValid <;> simp

/-- The step that accepts a word. -/
theorem step_accepts {s : State} (h : s.accepts = true) : step s = acceptWord s.nextInput.cmd s.popInput := by
  obtain ⟨h1, h2, h3⟩ := (accepts_iff s).1 h
  simp [step, edgeWith, h1, h2, h3]

/-- The reference schedule's edge that accepts a word. -/
theorem clockEdge_accepts {s : State} (h : s.accepts = true) :
    clockEdge s = startWord s.nextInput.cmd s.popInput := by
  obtain ⟨h1, h2, h3⟩ := (accepts_iff s).1 h
  simp [clockEdge, edgeWith, h1, h2, h3]

/-- An edge of a busy command with rst = 0. -/
theorem clockEdge_busy {s : State} (h : s.nextInput.rst = false) (hb : s.busy = true) :
    clockEdge s = busyEdge s.popInput := by
  simp [clockEdge, edgeWith, h, hb]

end Sys2Proof.Machine
end

