-- ==== Sys2Proof/Laws/Run.lean ====
section
/-! SUPPORT. Unrolling runs one step at a time: of `core`, of the reference schedule and of accepted words. -/

namespace Sys2Proof.Machine

theorem core_run_zero (s : State) : Host.Core.run core 0 s = .next s := rfl

/-- A run of any machine, its first step named. -/
theorem machine_run_succ (M : Host.Core) (k : Nat) (s : M.State) (o : Host.Outcome M.State M.Fault M.Refusal)
    (h : M.step s = o) :
    M.run (k + 1) s =
      match (generalizing := false) o with
      | .next t => M.run k t
      | .fault r => .fault r
      | .refused r => .refused r := by
  subst h; rfl

/-- A run whose first step goes on. -/
theorem core_run_next {s t : State} (k : Nat) (h : step s = .next t) :
    Host.Core.run core (k + 1) s = Host.Core.run core k t :=
  machine_run_succ core k s (.next t) h

/-- Edges of the reference schedule whose first goes on. -/
theorem clockEdges_next {s t : State} (k : Nat) (h : clockEdge s = .next t) :
    clockEdges (k + 1) s = clockEdges k t := by
  rw [clockEdges, h]

theorem clockEdges_add {s t : State} (j k : Nat) (h : clockEdges j s = .next t) :
    clockEdges (j + k) s = clockEdges k t := by
  induction j generalizing s with
  | zero => cases h; rw [Nat.zero_add]
  | succ j ih =>
    rw [Nat.add_right_comm]
    unfold clockEdges at h
    rcases he : clockEdge s with u | r | r <;> rw [he] at h
    · rw [clockEdges_next _ he]
      exact ih h
    · cases h
    · cases h

/-- Words whose first completes. -/
theorem acceptAll_next {w : CmdWord} {s t : State} (ws : List CmdWord) (h : acceptWord w s = .next t) :
    acceptAll (w :: ws) s = acceptAll ws t := by
  rw [acceptAll, h]

theorem acceptAll_append {ws : List CmdWord} {s t : State} (ws' : List CmdWord) (h : acceptAll ws s = .next t) :
    acceptAll (ws ++ ws') s = acceptAll ws' t := by
  induction ws generalizing s with
  | nil => cases h; rfl
  | cons w ws ih =>
    rw [List.cons_append]
    unfold acceptAll at h
    rcases he : acceptWord w s with u | r | r <;> rw [he] at h
    · rw [acceptAll_next _ he]
      exact ih h
    · cases h
    · cases h

end Sys2Proof.Machine
end

