-- ==== Sys2Proof/Tests/Slice0.lean ====
section
/-! SUPPORT. Small tests of the model against the vectors of spec/95_test_vectors.md (each names its vector), and the
witnesses the statements of Certificates/Slice0/Obligations.lean name. Every expected value is the spec's. -/

namespace Sys2Proof.Tests

open Sys2Proof Sys2Proof.Machine

/-! ### Small states -/

/-- The reset state after the words `ws`. -/
def afterWords (ws : List CmdWord) : State :=
  match acceptAll ws State.reset with
  | .next t => t
  | .fault _ => State.reset
  | .refused _ => State.reset

/-- `s` with the host presenting `w` at the coming edge. -/
def offered (w : CmdWord) (s : State) : State := { s with inputs := [Input.present w] }

/-- ACTIVE with `n` bytes 0x61 in the buffer and nothing compressed. -/
def holding (n : Nat) : State :=
  { initContext State.reset with
    buf := Vector.ofFn fun i : Fin 64 => if i.val < n then 0x61 else 0
    bufLen := BitVec.ofNat 6 n
    totalLen := BitVec.ofNat 64 n }

/-- ACTIVE at 2^61 − 3 bytes, `bufLen` 61 (V-C17's start). -/
def nearLimit : State := { holding 61 with totalLen := 0x1ffffffffffffffd }

/-- In ERROR after a reserved OP (V-C5's end). -/
def inError : State := cmdError .reservedOp (initContext State.reset)

/-- A FINALIZE of 56 bytes just accepted in the reference schedule: BUSY = 1. -/
def busyState : State := finalizeLaunch (holding 56)

/-- A digest of zeros but for one word, shown in IDLE. -/
def showing : State := { State.reset with digest := ⟨1, 0, 0, 0, 0, 0, 0, 0⟩, digestValid := true }

/-- "abc" in beats of 1, 0 and 2 bytes, junk in the lanes that are no operands (P2). -/
def beatsP2 : List (BitVec 3 × Word) := [(1, 0x61ffffff), (0, 0xdeadbeef), (2, 0x6263aaaa)]

/-- The digest of "abc" (V-S2). -/
def digestAbc : Words8 :=
  ⟨0xba7816bf, 0x8f01cfea, 0x414140de, 0x5dae2223, 0xb00361a3, 0x96177a9c, 0xb410ff61, 0xf20015ad⟩

/-! ### Well-formedness and decoding -/

/-- UPDATE with LEN 5, 6, 7 is not well formed (R61). -/
theorem test_wf_refuses : Instr.wellFormed (.update 5 0) = false ∧ Instr.wellFormed (.update 6 0) = false ∧
    Instr.wellFormed (.update 7 0xffffffff) = false := by decide

/-- LEN 4 is (the boundary of R61). -/
theorem test_wf_update4 : Instr.wellFormed (.update 4 0xffffffff) = true ∧ Instr.wellFormed (.update 0 0) = true := by
  decide

/-- NOP, bit by bit: OP 0000, RSV 0, LEN 000, DATA 0 (R56, R57). -/
theorem test_decode_nop : decode (0b0000#4 ++ 0b0#1 ++ 0b000#3 ++ 0#32) = .command .nop := by decide

/-- INIT: OP 0001. -/
theorem test_decode_init : decode (0b0001#4 ++ 0b0#1 ++ 0b000#3 ++ 0#32) = .command .init := by decide

/-- UPDATE 3, 0x61626300: OP 0010, LEN 011 (R63's example 0x23_6162_6300). -/
theorem test_decode_update : decode (0b0010#4 ++ 0b0#1 ++ 0b011#3 ++ 0x61626300#32) = .command (.update 3 0x61626300) ∧
    decode 0x2361626300 = .command (.update 3 0x61626300) := by decide

/-- FINALIZE: OP 0011. -/
theorem test_decode_finalize : decode (0b0011#4 ++ 0b0#1 ++ 0b000#3 ++ 0#32) = .command .finalize := by decide

/-- V-C13, V-C14, V-C7: the words the spec refuses. -/
theorem test_decode_refuses : decode 0x2d00000000 = .error .badFormat ∧ decode 0x1000000100 = .error .badFormat ∧
    decode 0x0000000001 = .error .badFormat ∧ decode 0xf0ffffffff = .error .reservedOp ∧
    decode 0x4000000000 = .error .reservedOp := by decide

/-- Every constructor's word, as R63 writes it. -/
theorem test_encode : encode .nop = 0x0000000000 ∧ encode .init = 0x1000000000 ∧
    encode (.update 3 0x61626300) = 0x2361626300 ∧ encode .finalize = 0x3000000000 := by decide

theorem test_words_clause1 : 4 ≤ (0x4000000000 : CmdWord).toNat / 2 ^ 36 ∧ 4 ≤ (0xffffffffff : CmdWord).toNat / 2 ^ 36 := by
  decide

theorem test_words_clause2 : (0x24ffffffff : CmdWord).toNat / 2 ^ 36 = 2 ∧ (0x24ffffffff : CmdWord).toNat / 2 ^ 35 % 2 = 0 ∧
    (0x24ffffffff : CmdWord).toNat / 2 ^ 32 % 8 ≤ 4 ∧ decode 0x24ffffffff = .command (.update 4 0xffffffff) := by decide

theorem test_words_clause3 : (0x2500000000 : CmdWord).toNat / 2 ^ 36 = 2 ∧ 4 < (0x2500000000 : CmdWord).toNat / 2 ^ 32 % 8 ∧
    (0x2800000000 : CmdWord).toNat / 2 ^ 36 = 2 ∧ (0x2800000000 : CmdWord).toNat / 2 ^ 35 % 2 = 1 := by decide

theorem test_words_clause4 : (0x3800000000 : CmdWord).toNat / 2 ^ 36 < 4 ∧ (0x3800000000 : CmdWord).toNat / 2 ^ 36 ≠ 2 ∧
    (0x3800000000 : CmdWord).toNat % 2 ^ 36 ≠ 0 ∧ (0x0000000001 : CmdWord).toNat / 2 ^ 36 = 0 ∧
    (0x0000000001 : CmdWord) ≠ 0 := by decide

theorem test_words_clause5 : (0 : CmdWord).toNat / 2 ^ 36 = 0 ∧ (0 : CmdWord).toNat % 2 ^ 36 = 0 := by decide

theorem test_words_clause6 : (0x1000000000 : CmdWord).toNat / 2 ^ 36 = 1 ∧ (0x1000000000 : CmdWord).toNat % 2 ^ 36 = 0 := by
  decide

theorem test_words_clause7 : (0x3000000000 : CmdWord).toNat / 2 ^ 36 = 3 ∧ (0x3000000000 : CmdWord).toNat % 2 ^ 36 = 0 := by
  decide

/-! ### Reset, acceptance, legality -/

/-- V-C1: reset in the middle of a busy command. -/
theorem test_reset_busy : ({ busyState with inputs := [Input.reset] } : State).nextInput.rst = true ∧
    step { busyState with inputs := [Input.reset] } = .next State.reset := ⟨by decide, rfl⟩

theorem test_legal_step : Legal (offered 0x1000000000 State.reset) ∧
    step (offered 0x1000000000 State.reset) = .next (initContext State.reset) := by
  refine ⟨?_, rfl⟩
  constructor <;> decide

theorem test_legal_edge : Legal (offered 0x3000000000 (holding 56)) ∧
    clockEdge (offered 0x3000000000 (holding 56)) = .next busyState := by
  refine ⟨?_, rfl⟩
  constructor <;> decide +kernel

theorem test_accepts_init : (offered 0x1000000000 State.reset).accepts = true ∧
    decode (offered 0x1000000000 State.reset).nextInput.cmd = .command .init := by decide

theorem test_fetch_init : decodeTableWord 40 0x1000000000 = some .init ∧ decodeTableWord 40 0x2161000000 = some (.update 1 0x61000000) ∧
    step (State.reset.withFetchWord 40 0x1000000000) = .next (initContext State.reset) := ⟨by decide, by decide, rfl⟩

theorem test_quiet_edge : State.reset.busy = false ∧ step State.reset = .next State.reset := ⟨rfl, rfl⟩

theorem test_busy_ignores_cmd : busyState.busy = true ∧
    step (offered 0xf0ffffffff busyState) = .next (roundEdge busyState) := ⟨rfl, rfl⟩

theorem test_run_two_words : State.reset.busy = false ∧
    (∀ x ∈ [Input.present 0x1000000000, Input.quiet, Input.present 0x2161000000], x.rst = false) ∧
    (afterWords [0x1000000000, 0x2161000000]).statusRegister = 0x00000101 := by decide +kernel

/-! ### Commands, one step each -/

/-- V-C20: NOP keeps an ERROR state's ERR_CODE. -/
theorem test_nop : exec .nop inError = .next inError ∧ inError.statusRegister = 0x00000022 := ⟨rfl, by decide⟩

/-- V-C2. -/
theorem test_init_status : State.reset.busy = false ∧ (afterWords [0x1000000000]).statusRegister = 0x00000001 ∧
    (afterWords [0x1000000000]).h.a = 0x6a09e667 ∧ (afterWords [0x1000000000]).h.h = 0x5be0cd19 := by decide

/-- Two legal states with BUSY = 0 and the same inputs, told apart by their digest alone. -/
theorem test_no_residue : Legal State.reset ∧ Legal showing ∧ State.reset.busy = false ∧ showing.busy = false ∧
    State.reset.inputs = showing.inputs ∧ State.reset.digest ≠ showing.digest := by
  refine ⟨?_, ?_, by decide⟩ <;> constructor <;> decide

/-- V-C16: INIT drops the "xyz" received. -/
theorem test_init_abandons : (afterWords [0x1000000000, 0x2378797a00]).statusRegister = 0x00000301 ∧
    (afterWords [0x1000000000, 0x2378797a00, 0x1000000000]).buf[0] = 0 ∧
    (afterWords [0x1000000000, 0x2378797a00, 0x1000000000]).statusRegister = 0x00000001 := by decide +kernel

/-- The witness of an UPDATE within the block: V-C17's first row, up to the limit exactly and to bufLen 63. -/
theorem test_update_within : nearLimit.phase = .active ∧ (2 : BitVec 3).toNat ≤ 4 ∧
    nearLimit.totalLen.toNat + (2 : BitVec 3).toNat ≤ 2 ^ 61 - 1 ∧ nearLimit.bufLen.toNat + (2 : BitVec 3).toNat < 64 ∧
    (updateContext 2 0x61610000 nearLimit).statusRegister = 0x00003f01 ∧
    (updateContext 2 0x61610000 nearLimit).totalLen = 0x1fffffffffffffff := by decide +kernel

/-- V-C8: the beat that crosses the block boundary. -/
theorem test_update_across : (holding 62).phase = .active ∧ (4 : BitVec 3).toNat ≤ 4 ∧
    (holding 62).totalLen.toNat + (4 : BitVec 3).toNat ≤ 2 ^ 61 - 1 ∧ 64 ≤ (holding 62).bufLen.toNat + (4 : BitVec 3).toNat ∧
    64 ≤ (holding 60).bufLen.toNat + (4 : BitVec 3).toNat ∧
    (updateContext 4 0x41424344 (holding 62)).statusRegister = 0x00000201 ∧
    (updateContext 4 0x41424344 (holding 62)).buf[0] = 0x43 ∧ (updateContext 4 0x41424344 (holding 62)).buf[1] = 0x44 ∧
    (updateContext 4 0x41424344 (holding 62)).totalLen = 66 ∧
    (updateContext 4 0x41424344 (holding 62)).h.a = 0x966009ae := by decide +kernel

/-- V-C3. -/
theorem test_zero_update : (holding 0).phase = .active ∧ (holding 0).totalLen.toNat ≤ 2 ^ 61 - 1 ∧
    exec (.update 0 0xdeadbeef) (holding 0) = .next (holding 0) := ⟨rfl, by decide, rfl⟩

/-- V-C4: the phase check comes before the zero-length no-op. -/
theorem test_zero_update_idle : State.reset.phase ≠ .active ∧ (0 : BitVec 3).toNat ≤ 4 ∧
    (afterWords [0x2000000000]).statusRegister = 0x00000012 ∧ (afterWords [0x3000000000]).statusRegister = 0x00000012 := by
  decide

/-- V-C9: `UPDATE 1, 0x61FFFFFF` and `UPDATE 1, 0x61000000` agree in lane 0. -/
theorem test_lanes : (∀ j, j < (1 : BitVec 3).toNat →
      (0x61ffffff : Word).extractLsb' (24 - 8 * j) 8 = (0x61000000 : Word).extractLsb' (24 - 8 * j) 8) ∧
    updateContext 1 0x61ffffff (holding 0) = holding 1 ∧ updateContext 1 0x61000000 (holding 0) = holding 1 := by
  decide +kernel

/-- V-C11, V-D4: 55 bytes, one block. -/
theorem test_finalize_one : (holding 55).phase = .active ∧ (holding 55).bufLen.toNat ≤ 55 ∧
    (holding 55).totalLen.toNat ≤ 2 ^ 61 - 1 ∧ (finalizeContext (holding 55)).statusRegister = 0x00000008 ∧
    (finalizeContext (holding 55)).digest =
      ⟨0x9f4390f8, 0xd30c2dd9, 0x2ec9f095, 0xb65e2b9a, 0xe9b0a925, 0xa5258e24, 0x1c9f1e91, 0x0f734318⟩ := by decide +kernel

/-- V-C11, V-D5: 56 bytes, two blocks. -/
theorem test_finalize_two : (holding 56).phase = .active ∧ 56 ≤ (holding 56).bufLen.toNat ∧
    (holding 56).totalLen.toNat ≤ 2 ^ 61 - 1 ∧ (finalizeContext (holding 56)).statusRegister = 0x00000008 ∧
    (finalizeContext (holding 56)).digest =
      ⟨0xb35439a4, 0xac6f0948, 0xb6d6f9e3, 0xc6af0f5f, 0x590ce20f, 0x1bde7090, 0xef797068, 0x6ec6738a⟩ := by decide +kernel

/-! ### Errors -/

/-- OP 0xF with DATA set, in IDLE: RESERVED_OP beats BAD_FORMAT and NOT_ACTIVE (V-C13). -/
theorem test_priority_reserved : 4 ≤ (0xf0ffffffff : CmdWord).toNat / 2 ^ 36 ∧
    (afterWords [0xf0ffffffff]).statusRegister = 0x00000022 := by decide

/-- V-C13: BAD_FORMAT beats NOT_ACTIVE in IDLE and LENGTH_OVERFLOW at the limit. -/
theorem test_priority_format : decode 0x2d00000000 = .error .badFormat ∧ wordError 0x2d00000000 State.reset = some .badFormat ∧
    wordError 0x2d61000000 { nearLimit with totalLen := 0x1fffffffffffffff } = some .badFormat := by decide +kernel

/-- UPDATE and FINALIZE in IDLE, an UPDATE that would also overflow among them; and in ACTIVE. -/
theorem test_priority_phase : decode 0x2461616161 = .command (.update 4 0x61616161) ∧ decode 0x3000000000 = .command .finalize ∧
    State.reset.phase ≠ .active ∧ (holding 0).phase = .active ∧
    wordError 0x2461616161 { nearLimit with phase := .idle } = some .notActive ∧ wordError 0x3000000000 (holding 0) = none := by
  decide +kernel

/-- V-C17: 4 bytes at 2^61 − 3 overflow, 2 bytes do not. -/
theorem test_priority_length : nearLimit.phase = .active ∧ 2 ^ 61 - 1 < nearLimit.totalLen.toNat + (4 : BitVec 3).toNat ∧
    nearLimit.totalLen.toNat + (2 : BitVec 3).toNat ≤ 2 ^ 61 - 1 ∧ wordError 0x2461616161 nearLimit = some .lengthOverflow ∧
    wordError 0x2261610000 nearLimit = none := by decide +kernel

/-- V-C5. -/
theorem test_error_entry : wordError 0x7000000000 (initContext State.reset) = some .reservedOp ∧
    (afterWords [0x1000000000, 0x7000000000]).statusRegister = 0x00000022 ∧
    (afterWords [0x1000000000, 0x7000000000]).h = Words8.zero := by decide +kernel

/-- V-C10: the first error's code stays. -/
theorem test_error_sticky : Legal inError ∧ inError.phase = .error ∧ (0x2f00000000 : CmdWord) ≠ encode .init ∧
    wordError 0x2f00000000 inError = some .badFormat ∧
    (afterWords [0x1000000000, 0x5000000000, 0x2161000000, 0x2f00000000, 0x0000000000]).statusRegister = 0x00000022 := by
  refine ⟨?_, by decide +kernel⟩
  constructor <;> decide

/-- V-C17: one byte over the limit. -/
theorem test_overflow : nearLimit.phase = .active ∧ (4 : BitVec 3).toNat ≤ 4 ∧
    2 ^ 61 - 1 < nearLimit.totalLen.toNat + (4 : BitVec 3).toNat ∧
    (cmdError .lengthOverflow nearLimit).statusRegister = 0x00000042 := by decide +kernel

/-- V-C18: INIT leaves ERROR. -/
theorem test_leaving_error : Legal (offered 0x1000000000 inError) ∧ (offered 0x1000000000 inError).phase = .error ∧
    step (offered 0x1000000000 inError) = .next (initContext inError) ∧ (initContext inError).phase ≠ .error := by
  refine ⟨?_, rfl, rfl, by decide⟩
  constructor <;> decide

theorem test_only_init : (offered 0x1000000000 State.reset).phase ≠ .active ∧
    step (offered 0x1000000000 State.reset) = .next (initContext State.reset) ∧
    (initContext State.reset).phase = .active := ⟨by decide, rfl, rfl⟩

theorem test_h_written : step (offered 0x1000000000 State.reset) = .next (initContext State.reset) ∧
    (initContext State.reset).h ≠ (offered 0x1000000000 State.reset).h := ⟨rfl, by decide⟩

/-- V-C15: an error clears the digest. -/
theorem test_digest_written : step (offered 0x4000000000 showing) = .next (cmdError .reservedOp showing) ∧
    (cmdError .reservedOp showing).digest ≠ (offered 0x4000000000 showing).digest ∧
    (cmdError .reservedOp showing).statusRegister = 0x00000022 := ⟨rfl, by decide, by decide⟩

/-! ### Outputs -/

theorem test_status_idle : (holding 62).busy = false ∧ (holding 62).statusPort 0 = 0x00003e01 ∧
    (holding 62).cmdReady = true := by decide +kernel

/-- R40: the most significant 32 bits of the port are DIGEST[0]. -/
theorem test_digest_port : (0 < 8 ∧ 7 < 8 ∧ 31 < 32) ∧ showing.busy = false ∧ (showing.digestPort 0).extractLsb' 224 32 = 1 ∧
    (digestBytes showing.digest).getD 3 0 = 1 := by decide

/-! ### The engine -/

theorem test_rotr : (0 < 1 ∧ 1 < 32 ∧ 31 < 32) ∧ rotr 0x00000001 1 = 0x80000000 ∧ rotr 0x80000000 31 = 0x00000001 := by decide

/-- V-E1, V-E2. -/
theorem test_big_sigma : bigSigma0 0x12345678 = 0x66146474 ∧ bigSigma0 0x6a09e667 = 0xce20b47e ∧
    bigSigma1 0x12345678 = 0x3561abda ∧ bigSigma1 0x510e527f = 0x3587272b := by decide

/-- V-E3; bit 31 of `σ0` sees nothing of the shift's third term, bit 28 the top bit. -/
theorem test_sigma_bits : (0 < 32 ∧ 31 < 32) ∧ smallSigma0 0xffffffff = 0x1fffffff ∧ smallSigma0 0x12345678 = 0xe7fce6ee ∧
    smallSigma1 0xffffffff = 0x003fffff ∧ smallSigma1 0x12345678 = 0xa1f78649 := by decide

/-- V-E4. -/
theorem test_ch_maj : (0 < 32 ∧ 31 < 32) ∧ ch 0x510e527f 0x9b05688c 0x1f83d9ab = 0x1f85c98c ∧ maj 0x6a09e667 0xbb67ae85 0x3c6ef372 = 0x3a6fe667 := by
  decide

/-- R65, R66: the ends of the ROMs. -/
theorem test_roms : (0 < 64 ∧ 63 < 64 ∧ 7 < 8) ∧ kWord 0 = 0x428a2f98 ∧ kWord 63 = 0xc67178f2 ∧ iv.a = 0x6a09e667 ∧
    iv.h = 0x5be0cd19 ∧ firstPrimes.getD 63 0 = 311 := by decide

/-- V-E6: T1 and T2 of round 0 of the compression of "abc". -/
theorem test_round0 : roundT1 (kWord 0) 0x61626380 iv = 0x54da50e8 ∧ roundT2 iv = 0x08909ae5 ∧
    (roundStep (kWord 0) 0x61626380 iv).a = 0x5d6aebcd ∧ (roundStep (kWord 0) 0x61626380 iv).e = 0xfa2a4622 := by decide

/-- The padded block of "abc" (V-E5, V-E8). -/
def blockAbc : Block := withLength 24 (padMark 3 (fillBlock 0 [0x61, 0x62, 0x63] zeroBlock))

/-- V-E5; 16 and 63 are the ends of the recurrence's range. -/
theorem test_schedule_range : (16 ≤ 16 ∧ 63 < 64) ∧ (schedule blockAbc).getD 16 0 = 0x61626380 ∧
    (schedule blockAbc).getD 17 0 = 0x000f0000 ∧ (schedule blockAbc).getD 63 0 = 0x12b1edeb := by decide +kernel

/-- The last aligned place of a block, and R41's first lane: the earliest byte is the most significant. -/
theorem test_aligned_beat : (60 % 4 = 0 ∧ 60 < 64) ∧ (schedule (fillBlock 60 (beatBytes 4 0x41424344) zeroBlock)).getD 15 0 = 0x41424344 ∧
    (beatBytes 4 0x41424344).getD 0 0 = 0x41 := by decide +kernel

/-- V-E5: the shift register after round 0; 0 and 63 are the ends of the window invariant's range. -/
theorem test_window_range : (0 < 64 ∧ 63 < 64 ∧ 64 ≤ 64) ∧ (roundEdge (loadEdge blockAbc (initContext State.reset))).wr[15] = 0x61626380 ∧
    (roundEdge (loadEdge blockAbc (initContext State.reset))).wr[14] = 0x00000018 := by decide +kernel

/-- V-E7, last row but one and first row. -/
theorem test_compress : compress iv zeroBlock =
      ⟨0xda5698be, 0x17b9b469, 0x62335799, 0x779fbeca, 0x8ce5d491, 0xc0d26243, 0xbafef9ea, 0x1837a9d8⟩ ∧
    (compress ⟨-1, -1, -1, -1, -1, -1, -1, -1⟩ (Vector.replicate 64 0xff)).a = 0x0598127a := by decide +kernel

/-- V-E8: the padding of 63 bytes leaves no zero byte before the first compression. -/
theorem test_padding : ((3 + 1 + 52) % 64 = 56 ∧ padZeros 3 = 52 ∧ padZeros 55 = 0 ∧ padZeros 56 = 63) ∧ (padMark 63 (holding 63).buf)[63] = 0x80 ∧ (padMark 63 (holding 63).buf)[62] = 0x61 ∧
    blockAbc[3] = 0x80 ∧ blockAbc[55] = 0x00 ∧ blockAbc[63] = 0x18 ∧
    (padMessage [0x61, 0x62, 0x63]).getD 2 0 = 0x63 ∧ (padMessage [0x61, 0x62, 0x63]).getD 3 0 = 0x80 ∧
    (padMessage [0x61, 0x62, 0x63]).getD 4 0 = 0x00 ∧ (padMessage [0x61, 0x62, 0x63]).getD 55 0 = 0x00 ∧
    (padMessage [0x61, 0x62, 0x63]).getD 56 0 = 0x00 ∧ (padMessage [0x61, 0x62, 0x63]).getD 63 0 = 0x18 := by decide +kernel

/-- V-L2: the length field beyond 32 bits. -/
theorem test_length_field : be64 (bitLength { holding 1 with totalLen := 0x20000001 }) =
    [0x00, 0x00, 0x00, 0x01, 0x00, 0x00, 0x00, 0x08] := by decide +kernel

/-- V-L3. -/
theorem test_bit_length : ({ holding 63 with totalLen := 0x1fffffffffffffff } : State).totalLen.toNat ≤ 2 ^ 61 - 1 ∧
    bitLength { holding 63 with totalLen := 0x1fffffffffffffff } = 0xfffffffffffffff8 := by decide +kernel

/-- A state 60 rounds into a compression, and a window that differs from its own beyond index 63 alone. -/
theorem test_late_words : ({ busyState with t := 60 } : State).estate = .round ∧
    ∀ i : Fin 16, ({ busyState with t := 60 } : State).t.toNat + i.val ≤ 63 →
      ({ busyState with t := 60 } : State).wr[i] = (busyState.wr.set 4 0xffffffff)[i] := by decide +kernel

/-! ### The reference schedule -/

theorem test_refine : Legal (offered 0x3000000000 (holding 3)) ∧ NoReset (offered 0x3000000000 (holding 3)) ∧
    (offered 0x3000000000 (holding 3)).accepts = true ∧
    step (offered 0x3000000000 (holding 3)) = .next (finalizeContext (holding 3)) := by
  refine ⟨?_, ?_, by decide +kernel, rfl⟩
  · constructor <;> decide +kernel
  · unfold NoReset; decide

/-- R117's four counts. -/
theorem test_edges : Legal (offered 0x3000000000 (holding 56)) ∧ NoReset (offered 0x3000000000 (holding 56)) ∧
    (offered 0x3000000000 (holding 56)).accepts = true ∧
    decode (offered 0x3000000000 (holding 56)).nextInput.cmd = .command .finalize ∧
    edgesOccupied 66 1 .finalize (holding 56) = 133 ∧ edgesOccupied 66 1 .finalize (holding 55) = 67 ∧
    edgesOccupied 66 1 (.update 4 0) (holding 60) = 66 ∧ edgesOccupied 66 1 (.update 4 0) (holding 59) = 1 ∧ 0 < 1 := by
  refine ⟨?_, ?_, by decide +kernel⟩
  · constructor <;> decide +kernel
  · unfold NoReset; decide

/-- P1 in the reference schedule: 69 edges from the first acceptance to the end, and not one fewer. -/
theorem test_sequence : Legal State.reset ∧ State.reset.busy = false ∧ State.reset.inputs = [] ∧
    (sequenceEnd 69 [0x1000000000, 0x2361626300, 0x3000000000] State.reset).map (·.digest) = some digestAbc ∧
    (sequenceEnd 68 [0x1000000000, 0x2361626300, 0x3000000000] State.reset).isNone = true := by
  refine ⟨?_, by decide +kernel⟩
  constructor <;> decide

theorem test_busy_legal : Legal busyState ∧ NoReset busyState ∧ busyState.busy = true := by
  refine ⟨?_, ?_, rfl⟩
  · constructor <;> decide +kernel
  · unfold NoReset; decide

/-- Two states of one bufLen, phase and engine state with different buffers. -/
theorem test_timing_data : (holding 3).bufLen = ({ holding 3 with buf := zeroBlock } : State).bufLen ∧
    (updateError 4 (holding 3) = none ↔ updateError 4 { holding 3 with buf := zeroBlock } = none) ∧
    (finalizeError (holding 3) = none ↔ finalizeError { holding 3 with buf := zeroBlock } = none) ∧
    busyState.busy = true ∧ NoReset busyState ∧ NoReset { busyState with h := Words8.zero } ∧
    clockEdge busyState = .next (roundEdge busyState) ∧
    clockEdge { busyState with h := Words8.zero } = .next (roundEdge { busyState with h := Words8.zero }) := by
  refine ⟨rfl, by decide +kernel, by decide +kernel, rfl, ?_, ?_, rfl, rfl⟩ <;> unfold NoReset <;> decide

/-! ### Messages and the assembler -/

/-- P2: "abc" in three beats, and STATUS before FINALIZE. -/
theorem test_hash_beats : (∀ b ∈ beatsP2, b.1.toNat ≤ 4) ∧ (beatsMessage beatsP2).length ≤ 2 ^ 61 - 1 ∧
    beatsMessage beatsP2 = [0x61, 0x62, 0x63] ∧ (hashCommands beatsP2).map encode = [0x1000000000, 0x2161ffffff, 0x20deadbeef, 0x226263aaaa, 0x3000000000] ∧
    (afterWords [0x1000000000, 0x2161ffffff, 0x20deadbeef, 0x226263aaaa]).statusRegister = 0x00000301 :=
  ⟨by simp [beatsP2], by decide +kernel⟩

/-- P1: STATUS and the digest after FINALIZE (V-S2). -/
theorem test_finalize_abc : (afterWords [0x1000000000, 0x2361626300, 0x3000000000]).statusRegister = 0x00000008 ∧
    (afterWords [0x1000000000, 0x2361626300, 0x3000000000]).digest = digestAbc := by decide +kernel

/-- V-S2 of the message as bytes. -/
theorem test_sha256_abc : sha256 [0x61, 0x62, 0x63] = digestAbc := by decide +kernel

/-- P1's cut and P2's cut of "abc". -/
theorem test_two_cuts : (∀ b ∈ ([(3, 0x61626300)] : List (BitVec 3 × Word)), b.1.toNat ≤ 4) ∧
    (∀ b ∈ beatsP2, b.1.toNat ≤ 4) ∧ beatsMessage [(3, 0x61626300)] = beatsMessage beatsP2 ∧
    (beatsMessage [(3, 0x61626300)]).length ≤ 2 ^ 61 - 1 := ⟨by simp, by simp [beatsP2], by decide, by decide⟩

/-- P1: `HASH.STR "abc"`. -/
theorem test_hash_str : strBytes ['a', 'b', 'c'] = some [0x61, 0x62, 0x63] ∧
    ([0x61, 0x62, 0x63] : List Byte).length ≤ 2 ^ 61 - 1 ∧
    AsmLine.words (.hashStr ['a', 'b', 'c']) = some [0x1000000000, 0x2361626300, 0x3000000000] := by decide

/-- R64: a group of four and a last group, missing bytes 0x00; and an escape. -/
theorem test_assembler_groups : AsmLine.words (.updateHex ['6', '1', '6', '2', '6', '3', '6', '4', '6', '5']) =
      some [0x2461626364, 0x2165000000] ∧
    strBytes ['a', '\\', 'x', 'f', 'F', 'b'] = some [0x61, 0xff, 0x62] := by decide

/-- P2's and P1's lines, read as text. -/
theorem test_assembler_text :
    assemble "INIT ; 10_0000_0000\nUPDATE 1, 0x61FFFFFF\n\nNOP\nWAIT\nRAW 0xf0_ffff_ffff\nUPDATE.B 97, 0x62\nHASH.STR \"abc\"".toList =
      some [0x1000000000, 0x2161ffffff, 0x0000000000, 0xf0ffffffff, 0x2261620000, 0x1000000000, 0x2361626300, 0x3000000000] := by
  decide +kernel

end Sys2Proof.Tests
end

section
/-! PROOFS. The rotation of R10. -/

namespace Sys2Proof.Machine

/-- Below the word's width the library's rotation does not reduce its amount, so it is the formula of R10. -/
theorem rotr_eq_rotateRight {n : Nat} (x : Word) (hn : n < 32) : rotr x n = x.rotateRight n := by
  rw [BitVec.rotateRight_eq_rotateRightAux_of_lt hn, rotr, BitVec.rotateRightAux]

/-- Settles O39: the amounts 1 to 31 are below the width. -/
theorem rotrIsRotation : Obligations.RotrIsRotation := by
  unfold Obligations.RotrIsRotation
  intro x n _ hn
  exact rotr_eq_rotateRight x hn

end Sys2Proof.Machine
end

section
/-! PROOFS. The errors a word can raise and the acceptance edge of the reference schedule (rules R96, R99, R117). -/

namespace Sys2Proof.Machine

/-! ### The errors -/

theorem decodeErrCode_ne_none (e : DecodeError) : decodeErrCode e ≠ .none := by
  cases e <;> simp [decodeErrCode]

theorem updateError_ne_none {n : BitVec 3} {s : State} {c : ErrCode} (h : updateError n s = some c) : c ≠ .none := by
  unfold updateError at h
  split_ifs at h <;> cases h <;> simp

theorem finalizeError_ne_none {s : State} {c : ErrCode} (h : finalizeError s = some c) : c ≠ .none := by
  unfold finalizeError at h
  split_ifs at h
  cases h
  simp

/-- A word's error has a code of its own (R96). -/
theorem wordError_ne_none {w : CmdWord} {s : State} {c : ErrCode} (h : wordError w s = some c) : c ≠ .none := by
  unfold wordError at h
  split at h
  · cases h
    exact decodeErrCode_ne_none _
  · exact updateError_ne_none h
  · exact finalizeError_ne_none h
  · cases h
  · cases h

/-- An UPDATE raises no error exactly when its LEN is legal, the context is usable and the message stays within the
limit (R61, R86, R88). -/
theorem updateError_eq_none_iff {n : BitVec 3} {s : State} :
    updateError n s = none ↔
      n.toNat ≤ 4 ∧ s.phase = .active ∧ s.totalLen.toNat + n.toNat ≤ 2 ^ 61 - 1 := by
  unfold updateError Config.beatMaxBytes Config.maxMsgBytes
  by_cases hn : 4 < n.toNat
  · simp [hn, Nat.not_le.2 hn]
  · by_cases hp : s.phase = .active
    · simp [hn, hp, Nat.not_lt.1 hn]
    · simp [hn, hp]

theorem finalizeError_eq_none_iff {s : State} : finalizeError s = none ↔ s.phase = .active := by
  simp [finalizeError]

/-! ### The acceptance edge of the reference schedule -/

/-- Everything the acceptance edge of the reference schedule can leave: what the transaction level leaves, or a
compression launched (R117). -/
theorem startWord_cases {w : CmdWord} {s t : State} (h : startWord w s = .next t) :
    acceptWord w s = .next t ∨
    (∃ n d, decode w = .command (.update n d) ∧ updateError n s = none ∧ 64 ≤ s.bufLen.toNat + n.toNat ∧
      t = updateLaunch n d s) ∨
    (decode w = .command .finalize ∧ finalizeError s = none ∧ t = finalizeLaunch s) := by
  unfold startWord at h
  unfold acceptWord
  rcases hd : decode w with i | e
  · rw [hd] at h
    simp only [startCommand] at h
    split_ifs at h with hc
    · exact .inl h
    · rcases i with _ | _ | ⟨n, d⟩ | _
      · exact .inl h
      · exact .inl h
      · have hn : updateError n s = none ∧ 64 ≤ s.bufLen.toNat + n.toNat := by
          by_contra hn
          simp [compressionCount, Config.blockBytes, hn] at hc
        exact .inr (.inl ⟨n, d, rfl, hn.1, hn.2, by simpa using h.symm⟩)
      · have hf : finalizeError s = none := by
          by_contra hf
          simp [compressionCount, hf] at hc
        exact .inr (.inr ⟨rfl, hf, by simpa using h.symm⟩)
  · rw [hd] at h
    exact .inl h

/-! ### What the launch edges and a ROUND edge leave -/

section
variable (s : State)

/-- The launch of an UPDATE writes buf and bufLen as its transaction does (R117). -/
theorem updateLaunch_context {n : BitVec 3} (d : Word) (h : 64 ≤ s.bufLen.toNat + n.toNat) :
    (updateLaunch n d s).buf = (updateContext n d s).buf ∧
      (updateLaunch n d s).bufLen = (updateContext n d s).bufLen := by
  rw [updateContext_across n d s h]
  simp [updateLaunch, Config.blockBytes]

/-- Whichever block a FINALIZE launches, it writes the engine, BUSY and SEQ alone (R117, log entry 8). -/
theorem finalizeLaunch_eq :
    ∃ (b : Block) (q : Seq), finalizeLaunch s = { loadEdge b s with seq := q } ∧
      (q = .lengthBlock → 56 ≤ s.bufLen.toNat) := by
  unfold finalizeLaunch
  split_ifs with h
  · exact ⟨_, _, rfl, fun _ => h⟩
  · exact ⟨_, _, rfl, nofun⟩

theorem roundEdge_estate_ne_idle : (roundEdge s).estate ≠ .idle := by
  by_cases h : s.t = 63 <;> simp_all

theorem roundEdge_t_eq_zero (h : (roundEdge s).estate ≠ .round) : (roundEdge s).t = 0 := by
  by_cases ht : s.t = 63 <;> simp_all

end

/-! ### What UPDATE leaves on either side of the block boundary -/

theorem totalLen_add_toNat {s : State} {n : BitVec 3} (ht : s.totalLen.toNat + n.toNat ≤ 2 ^ 61 - 1) :
    (s.totalLen + n.setWidth 64).toNat = s.totalLen.toNat + n.toNat := by
  have hn := n.isLt
  rw [BitVec.toNat_add, BitVec.toNat_setWidth]
  omega

/-- UPDATE keeps bufLen equal to totalLen modulo 64, on either side of the block boundary (R19). -/
theorem updateContext_bufLen (n : BitVec 3) (d : Word) (s : State) :
    (updateContext n d s).bufLen.toNat = (s.bufLen.toNat + n.toNat) % 64 := by
  have hn := n.isLt
  have hl := s.bufLen.isLt
  by_cases hw : s.bufLen.toNat + n.toNat < 64
  · rw [updateContext_within n d s hw]
    simp
  · rw [updateContext_across n d s (by omega)]
    simp only [BitVec.toNat_ofNat]
    omega

/-- UPDATE keeps the bytes of buf from bufLen on zero (R18). -/
theorem updateContext_tail_zero (n : BitVec 3) (d : Word) {s : State}
    (hz : ∀ i : Fin 64, s.bufLen.toNat ≤ i.val → s.buf[i] = 0) (i : Fin 64)
    (hi : (updateContext n d s).bufLen.toNat ≤ i.val) : (updateContext n d s).buf[i] = 0 := by
  have hn := n.isLt
  have hl := s.bufLen.isLt
  rw [updateContext_bufLen] at hi
  by_cases hw : s.bufLen.toNat + n.toNat < 64
  · rw [updateContext_within n d s hw]
    simp only [Fin.getElem_fin, fillBlock_get, beatBytes_length]
    rw [if_neg (by omega)]
    exact hz i (by omega)
  · rw [updateContext_across n d s (by omega)]
    simp only [Fin.getElem_fin, fillBlock_get, List.length_drop, beatBytes_length]
    rw [if_neg (by omega)]
    exact zeroBlock_get i i.isLt

/-- UPDATE leaves the engine's scratch as it was, or zero after a compression (log entry 10). -/
theorem updateContext_scratch (n : BitVec 3) (d : Word) (s : State) :
    ((updateContext n d s).estate = s.estate ∧ (updateContext n d s).work = s.work ∧
      (updateContext n d s).wr = s.wr ∧ (updateContext n d s).t = s.t) ∨
    ((updateContext n d s).estate = .idle ∧ (updateContext n d s).work = Words8.zero ∧
      (updateContext n d s).wr = Vector.replicate 16 0 ∧ (updateContext n d s).t = 0) := by
  by_cases hw : s.bufLen.toNat + n.toNat < 64
  · rw [updateContext_within n d s hw]
    exact .inl ⟨rfl, rfl, rfl, rfl⟩
  · rw [updateContext_across n d s (by omega)]
    exact .inr ⟨rfl, rfl, rfl, rfl⟩

end Sys2Proof.Machine
end

section
/-! PROOFS. The legality of a state is kept by every edge, at both levels (rules R18 to R23, R26, R29 to R32, R115):
one lemma for each thing an edge can do, then the edges. -/

namespace Sys2Proof

open Sys2Proof.Machine

section
variable {s : State}

/-! ### Each operation keeps legality -/

theorem Legal.seq_ne_lengthBlock (h : Legal s) (hb : s.busy = false) : s.seq ≠ .lengthBlock := by
  simp [(h.quiet hb).1]

/-- The coming inputs have no part in legality. -/
theorem Legal.withInputs (h : Legal s) (ins : List Input) : Legal { s with inputs := ins } := { h with }

theorem Legal.after_popInput (h : Legal s) : Legal s.popInput := h.withInputs s.inputs.tail

/-- Settles O7: the clauses are checked on the values of R35. -/
theorem resetIsLegal : Obligations.ResetIsLegal := by
  unfold Obligations.ResetIsLegal
  constructor <;> decide

theorem legal_resetEdge (s : State) : Legal (resetEdge s) := resetIsLegal.withInputs s.inputs

theorem Legal.after_cmdError (h : Legal s) (hb : s.busy = false) {c : ErrCode} (hc : c ≠ .none) :
    Legal (cmdError c s) :=
  { h with
    err_iff := by
      by_cases hp : s.phase = .error
      · simpa [hp] using h.err_iff.2 hp
      · simpa [hp] using hc
    total_le := by simp
    bufLen_eq := by simp
    tail_zero := fun i _ => zeroBlock_get i i.isLt
    digest_zero := fun _ => rfl
    valid_idle := fun _ => rfl
    context_zero := fun _ => ⟨rfl, rfl⟩
    busy_active := fun hb' => absurd hb' (by simp [hb])
    two_blocks := fun hq => absurd hq (h.seq_ne_lengthBlock hb) }

theorem Legal.after_initContext (h : Legal s) (hb : s.busy = false) : Legal (initContext s) :=
  { h with
    err_iff := by simp
    total_le := by simp
    bufLen_eq := by simp
    tail_zero := fun i _ => zeroBlock_get i i.isLt
    digest_zero := fun _ => rfl
    valid_idle := fun _ => rfl
    context_zero := fun hp => absurd rfl hp
    busy_active := fun _ => rfl
    two_blocks := fun hq => absurd hq (h.seq_ne_lengthBlock hb) }

theorem Legal.after_updateContext (h : Legal s) (hb : s.busy = false) {n : BitVec 3} (d : Word)
    (he : updateError n s = none) : Legal (updateContext n d s) := by
  obtain ⟨-, hp, ht⟩ := updateError_eq_none_iff.1 he
  have htot := totalLen_add_toNat ht
  have hidle : (updateContext n d s).estate = .idle ∧ (updateContext n d s).work = Words8.zero ∧
      (updateContext n d s).wr = Vector.replicate 16 0 ∧ (updateContext n d s).t = 0 := by
    obtain ⟨hes, hw, hr, hc⟩ | hz := updateContext_scratch n d s
    · have hi := (h.quiet hb).2
      obtain ⟨hw', hr'⟩ := h.scratch_zero hi
      exact ⟨hes.trans hi, hw.trans hw', hr.trans hr', hc.trans (h.counter_zero (by simp [hi]))⟩
    · exact hz
  obtain ⟨hes, hw, hr, hc⟩ := hidle
  exact {
    err_iff := by simpa using h.err_iff
    total_le := by rw [updateContext_totalLen, htot]; exact ht
    bufLen_eq := by
      rw [updateContext_bufLen, updateContext_totalLen, htot, h.bufLen_eq]
      omega
    tail_zero := updateContext_tail_zero n d h.tail_zero
    digest_zero := by simpa using h.digest_zero
    valid_idle := by simpa using h.valid_idle
    context_zero := fun hne => absurd (by simpa using hp) hne
    busy_active := fun _ => by simpa using hp
    quiet := fun _ => ⟨by simpa using (h.quiet hb).1, hes⟩
    scratch_zero := fun _ => ⟨hw, hr⟩
    counter_zero := fun _ => hc
    pending := fun hb' => absurd hb' (by simp [hb])
    two_blocks := fun hq => absurd (by simpa using hq) (h.seq_ne_lengthBlock hb) }

/-- The zero context that a FINALIZE leaves in IDLE is legal, whatever digest it shows (R92, R93). -/
theorem Legal.after_finalizeContext (h : Legal s) (hb : s.busy = false) (he : finalizeError s = none) :
    Legal (finalizeContext s) := by
  have hp := finalizeError_eq_none_iff.1 he
  exact {
    err_iff := by simpa [hp] using h.err_iff
    total_le := by simp
    bufLen_eq := by simp
    tail_zero := fun i _ => zeroBlock_get i i.isLt
    digest_zero := nofun
    valid_idle := fun hne => absurd rfl hne
    context_zero := fun _ => ⟨rfl, rfl⟩
    busy_active := fun hb' => absurd hb' (by simp [hb])
    quiet := fun _ => ⟨by simpa using (h.quiet hb).1, rfl⟩
    scratch_zero := fun _ => ⟨rfl, rfl⟩
    counter_zero := fun _ => rfl
    pending := fun hb' => absurd hb' (by simp [hb])
    two_blocks := fun hq => absurd (by simpa using hq) (h.seq_ne_lengthBlock hb) }

/-- A compression may start in any ACTIVE context, with a remainder that fits it (R21, R77). -/
theorem Legal.after_loadEdge (h : Legal s) (hp : s.phase = .active) (b : Block) {q : Seq}
    (hq : q = .lengthBlock → 56 ≤ s.bufLen.toNat) : Legal { loadEdge b s with seq := q } :=
  { h with
    busy_active := fun _ => hp
    quiet := nofun
    scratch_zero := nofun
    counter_zero := fun _ => rfl
    pending := nofun
    two_blocks := hq }

theorem Legal.after_finalizeLaunch (h : Legal s) (he : finalizeError s = none) : Legal (finalizeLaunch s) := by
  obtain ⟨b, q, hs, hq⟩ := finalizeLaunch_eq s
  rw [hs]
  exact h.after_loadEdge (finalizeError_eq_none_iff.1 he) b hq

/-- The launch of an UPDATE has the context of its transaction but for H, and the engine of a LOAD edge. -/
theorem Legal.after_updateLaunch (h : Legal s) (hb : s.busy = false) {n : BitVec 3} (d : Word)
    (he : updateError n s = none) (hn : 64 ≤ s.bufLen.toNat + n.toNat) : Legal (updateLaunch n d s) := by
  obtain ⟨-, hp, -⟩ := updateError_eq_none_iff.1 he
  obtain ⟨hbuf, hlen⟩ := updateLaunch_context s d hn
  have hc := h.after_updateContext hb d he
  exact { h with
    total_le := hc.total_le
    bufLen_eq := by rw [hlen]; exact hc.bufLen_eq
    tail_zero := by rw [hlen, hbuf]; exact hc.tail_zero
    context_zero := fun hne => absurd hp hne
    busy_active := fun _ => hp
    quiet := nofun
    scratch_zero := nofun
    counter_zero := fun _ => rfl
    pending := nofun
    two_blocks := nofun }

theorem Legal.after_roundEdge (h : Legal s) (hb : s.busy = true) : Legal (roundEdge s) :=
  { h with
    quiet := fun hq => absurd hb (by simpa using hq)
    scratch_zero := fun hi => absurd hi (roundEdge_estate_ne_idle s)
    counter_zero := roundEdge_t_eq_zero s
    pending := fun _ hi => absurd hi (roundEdge_estate_ne_idle s) }

/-- The ADD edge writes H, in an ACTIVE context, and clears BUSY exactly when SEQ is empty (R79). -/
theorem Legal.after_addEdge (h : Legal s) (hb : s.busy = true) : Legal (addEdge s) :=
  have hp := h.busy_active hb
  { h with
    context_zero := fun hne => absurd hp hne
    busy_active := fun _ => hp
    quiet := fun hq => ⟨by simpa using hq, rfl⟩
    scratch_zero := fun _ => ⟨rfl, rfl⟩
    counter_zero := fun _ => rfl
    pending := fun hb' _ => by simpa using hb' }

theorem Legal.after_lengthBlockEdge (h : Legal s) (hb : s.busy = true) : Legal (lengthBlockEdge s) :=
  h.after_loadEdge (h.busy_active hb) _ nofun

theorem Legal.after_tailEdge (h : Legal s) (hb : s.busy = true) (he : s.estate = .idle) : Legal (tailEdge s) :=
  { h with
    err_iff := by simpa [h.busy_active hb] using h.err_iff
    total_le := by simp
    bufLen_eq := by simp
    tail_zero := fun i _ => zeroBlock_get i i.isLt
    digest_zero := nofun
    valid_idle := fun hne => absurd rfl hne
    context_zero := fun _ => ⟨rfl, rfl⟩
    busy_active := nofun
    quiet := fun _ => ⟨rfl, he⟩
    pending := nofun
    two_blocks := nofun }

/-! ### Every edge keeps legality -/

variable {t : State} {w : CmdWord}

theorem Legal.after_busyEdge (h : Legal s) (hb : s.busy = true) (ht : busyEdge s = .next t) : Legal t := by
  obtain ⟨-, rfl⟩ | ⟨-, rfl⟩ | ⟨-, -, rfl⟩ | ⟨he, -, rfl⟩ := busyEdge_cases ht
  · exact h.after_roundEdge hb
  · exact h.after_addEdge hb
  · exact h.after_lengthBlockEdge hb
  · exact h.after_tailEdge hb he

theorem Legal.after_acceptWord (h : Legal s) (hb : s.busy = false) (ht : acceptWord w s = .next t) : Legal t := by
  obtain ⟨c, hc, rfl⟩ | ⟨-, ⟨-, rfl⟩ | ⟨-, rfl⟩ | ⟨n, d, -, he, rfl⟩ | ⟨-, he, rfl⟩⟩ := acceptWord_cases ht
  · exact h.after_cmdError hb (wordError_ne_none hc)
  · exact h
  · exact h.after_initContext hb
  · exact h.after_updateContext hb d he
  · exact h.after_finalizeContext hb he

theorem Legal.after_startWord (h : Legal s) (hb : s.busy = false) (ht : startWord w s = .next t) : Legal t := by
  obtain ha | ⟨n, d, -, he, hn, rfl⟩ | ⟨-, he, rfl⟩ := startWord_cases ht
  · exact h.after_acceptWord hb ha
  · exact h.after_updateLaunch hb d he hn
  · exact h.after_finalizeLaunch he

/-- An edge keeps legality when the acceptance of a word does. -/
theorem Legal.after_edgeWith {accept : CmdWord → State → Host.Outcome State Fault Refusal}
    (haccept : ∀ {w s t}, Legal s → s.busy = false → accept w s = .next t → Legal t)
    (h : Legal s) (ht : edgeWith accept s = .next t) : Legal t := by
  obtain ⟨-, ho⟩ | ⟨-, hb, ho⟩ | ⟨-, hb, -, ho⟩ | ⟨-, -, -, ho⟩ := edgeWith_cases ht
  · cases ho
    exact legal_resetEdge s.popInput
  · exact h.after_popInput.after_busyEdge hb ho.symm
  · exact haccept h.after_popInput hb ho.symm
  · cases ho
    exact h.after_popInput

end

/-- Settles O8: the transaction level's acceptance is the error entry or one command's effect. -/
theorem stepKeepsLegal : Obligations.StepKeepsLegal := by
  unfold Obligations.StepKeepsLegal
  intro s t h ht
  exact h.after_edgeWith Legal.after_acceptWord ht

/-- Settles O9: the reference schedule's acceptance is the transaction's or the launch of a compression. -/
theorem clockEdgeKeepsLegal : Obligations.ClockEdgeKeepsLegal := by
  unfold Obligations.ClockEdgeKeepsLegal
  intro s t h ht
  exact h.after_edgeWith Legal.after_startWord ht

end Sys2Proof
end

section
/-! PROOFS. The word of a decoded command, both ways (rules R56, R59, R61, R63). -/

namespace Sys2Proof

/-- A word is its OP and the 36 bits below it. -/
theorem word_eq_op_rest (w : CmdWord) : w = opField w ++ restField w := by
  apply BitVec.eq_of_getLsbD_eq
  intro i hi
  simp only [opField, restField, BitVec.getLsbD_append, BitVec.getLsbD_extractLsb', Nat.zero_add]
  split_ifs with h
  · simp [h]
  · rw [show 36 + (i - 36) = i by omega]
    simp [show i - 36 < 4 by omega]

/-- A word is its four fields (R56). -/
theorem word_eq_fields (w : CmdWord) : w = opField w ++ rsvField w ++ lenField w ++ dataField w := by
  apply BitVec.eq_of_getLsbD_eq
  intro i hi
  simp only [opField, rsvField, lenField, dataField, BitVec.getLsbD_append, BitVec.getLsbD_extractLsb', Nat.zero_add]
  split_ifs with h₁ h₂ h₃
  · simp [h₁]
  · rw [show 32 + (i - 32) = i by omega]
    simp [h₂]
  · rw [show 35 + (i - 32 - 3) = i by omega]
    simp [h₃]
  · rw [show 36 + (i - 32 - 3 - 1) = i by omega]
    simp [show i - 32 - 3 - 1 < 4 by omega]

/-- A word that decodes to a command is that command's word. -/
theorem eq_encode_of_decode {w : CmdWord} {i : Instr} (h : decode w = .command i) : w = encode i := by
  unfold decode at h
  split_ifs at h with h4 h2 hf hr h0 h1 <;> cases h
  · have hrsv : rsvField w = 0 := by
      by_contra hne
      exact hf (.inl hne)
    conv_lhs => rw [word_eq_fields w, h2, hrsv]
    rfl
  · rw [word_eq_op_rest w, h0, not_not.1 hr]
    rfl
  · rw [word_eq_op_rest w, h1, not_not.1 hr]
    rfl
  · have h3 : opField w = 3 := by bv_omega
    rw [word_eq_op_rest w, h3, not_not.1 hr]
    rfl

/-- The word of a well-formed command decodes to it. -/
theorem decode_encode {i : Instr} (h : i.wellFormed = true) : decode (encode i) = .command i := by
  rcases i with _ | _ | ⟨n, d⟩ | _
  · decide
  · decide
  · obtain ⟨hop, hrsv, hlen, hdata⟩ := Laws.OpField.update n d
    have hn : n.toNat ≤ Config.beatMaxBytes := by simpa [Instr.wellFormed] using h
    simp [decode, hop, hrsv, hlen, hdata, Instr.opcode, hn]
  · decide

end Sys2Proof

namespace Sys2Proof.Machine

/-- Accepting the word of a well-formed command is the command (R83). -/
theorem acceptWord_encode {i : Instr} (h : i.wellFormed = true) (s : State) :
    acceptWord (encode i) s = exec i s := by
  unfold acceptWord
  rw [decode_encode h]

end Sys2Proof.Machine
end

section
/-! PROOFS. What a step may write: PHASE, H and the digest registers (rules R17, R22, R24, R25). -/

namespace Sys2Proof.Machine

variable {s t : State} {w : CmdWord}

/-- Everything a step can do: reset, an edge of a busy command, the acceptance of a word, or nothing. -/
theorem step_cases (h : step s = .next t) :
    (s.nextInput.rst = true ∧ t = resetEdge s.popInput) ∨
    (s.busy = true ∧ busyEdge s.popInput = .next t) ∨
    (s.accepts = true ∧ acceptWord s.nextInput.cmd s.popInput = .next t) ∨
    t = s.popInput := by
  obtain ⟨hr, ho⟩ | ⟨-, hb, ho⟩ | ⟨hr, hb, hv, ho⟩ | ⟨-, -, -, ho⟩ := edgeWith_cases h
  · exact .inl ⟨hr, by simpa using ho⟩
  · exact .inr (.inl ⟨hb, ho.symm⟩)
  · exact .inr (.inr (.inl ⟨(accepts_iff s).2 ⟨hr, hb, hv⟩, ho.symm⟩))
  · exact .inr (.inr (.inr (by simpa using ho)))

/-! ### PHASE -/

theorem busyEdge_phase (h : busyEdge s = .next t) : t.phase = s.phase ∨ t.phase = .idle := by
  obtain ⟨-, rfl⟩ | ⟨-, rfl⟩ | ⟨-, -, rfl⟩ | ⟨-, -, rfl⟩ := busyEdge_cases h <;> simp

theorem eq_encode_init_of_acceptWord_active (h : acceptWord w s = .next t) (hs : s.phase ≠ .active)
    (ht : t.phase = .active) : w = encode .init := by
  obtain ⟨c, -, rfl⟩ | ⟨-, ⟨-, rfl⟩ | ⟨hd, -⟩ | ⟨n, d, -, -, rfl⟩ | ⟨-, -, rfl⟩⟩ := acceptWord_cases h
  · cases ht
  · exact absurd ht hs
  · exact eq_encode_of_decode hd
  · exact absurd (by simpa using ht) hs
  · cases ht

/-- Settles O31: reset and the tail of a FINALIZE leave IDLE, the error entry ERROR, and all else keeps PHASE. -/
theorem onlyInitActivates : Obligations.OnlyInitActivates := by
  unfold Obligations.OnlyInitActivates
  intro s t hs hstep ht
  obtain ⟨-, rfl⟩ | ⟨-, hbusy⟩ | ⟨hacc, hword⟩ | rfl := step_cases hstep
  · cases ht
  · obtain hp | hp := busyEdge_phase hbusy
    · exact absurd (hp.symm.trans ht) hs
    · cases hp.symm.trans ht
  · exact ⟨hacc, eq_encode_init_of_acceptWord_active hword hs ht⟩
  · exact absurd ht hs

/-! ### H -/

theorem busyEdge_h_writers (h : busyEdge s = .next t) (hne : t.h ≠ s.h) :
    s.estate = .add ∨ s.estate = .idle ∧ s.seq = .digest := by
  obtain ⟨-, rfl⟩ | ⟨he, -⟩ | ⟨-, -, rfl⟩ | ⟨he, hq, -⟩ := busyEdge_cases h
  · exact absurd rfl hne
  · exact .inl he
  · exact absurd rfl hne
  · exact .inr ⟨he, hq⟩

theorem acceptWord_h_writers (h : acceptWord w s = .next t) (hne : t.h ≠ s.h) :
    wordError w s ≠ none ∨ w = encode .init ∨ w = encode .finalize ∨
      ∃ n d, w = encode (.update n d) ∧ 64 ≤ s.bufLen.toNat + n.toNat := by
  obtain ⟨c, hc, -⟩ | ⟨-, ⟨-, rfl⟩ | ⟨hd, -⟩ | ⟨n, d, hd, -, rfl⟩ | ⟨hd, -, -⟩⟩ := acceptWord_cases h
  · exact .inl (by simp [hc])
  · exact absurd rfl hne
  · exact .inr (.inl (eq_encode_of_decode hd))
  · refine .inr (.inr (.inr ⟨n, d, eq_encode_of_decode hd, ?_⟩))
    by_contra hlt
    exact hne (by rw [updateContext_within n d s (by omega)])
  · exact .inr (.inr (.inl (eq_encode_of_decode hd)))

/-- Settles O32: of the accepted words NOP writes nothing and an UPDATE within its block leaves H. -/
theorem hashStateWriters : Obligations.HashStateWriters := by
  unfold Obligations.HashStateWriters
  intro s t hstep hne
  obtain ⟨hr, -⟩ | ⟨hb, hbusy⟩ | ⟨hacc, hword⟩ | rfl := step_cases hstep
  · exact .inl hr
  · exact .inr (.inr ⟨hb, busyEdge_h_writers (s := s.popInput) hbusy hne⟩)
  · exact .inr (.inl ⟨hacc, acceptWord_h_writers (s := s.popInput) hword hne⟩)
  · exact absurd rfl hne

/-! ### The digest registers -/

/-- The digest registers of `s` and `t` are not the same. -/
def DigestDiffers (s t : State) : Prop := t.digest ≠ s.digest ∨ t.digestValid ≠ s.digestValid

theorem not_digestDiffers (hd : t.digest = s.digest) (hv : t.digestValid = s.digestValid) : ¬ DigestDiffers s t :=
  fun h => h.elim (absurd hd) (absurd hv)

theorem busyEdge_digest_writers (h : busyEdge s = .next t) (hne : DigestDiffers s t) :
    s.estate = .idle ∧ s.seq = .digest := by
  obtain ⟨-, rfl⟩ | ⟨-, rfl⟩ | ⟨-, -, rfl⟩ | ⟨he, hq, -⟩ := busyEdge_cases h
  · exact absurd hne (not_digestDiffers rfl rfl)
  · exact absurd hne (not_digestDiffers rfl rfl)
  · exact absurd hne (not_digestDiffers rfl rfl)
  · exact ⟨he, hq⟩

theorem acceptWord_digest_writers (h : acceptWord w s = .next t) (hne : DigestDiffers s t) :
    wordError w s ≠ none ∨ w = encode .init ∨ w = encode .finalize := by
  obtain ⟨c, hc, -⟩ | ⟨-, ⟨-, rfl⟩ | ⟨hd, -⟩ | ⟨n, d, -, -, rfl⟩ | ⟨hd, -, -⟩⟩ := acceptWord_cases h
  · exact .inl (by simp [hc])
  · exact absurd hne (not_digestDiffers rfl rfl)
  · exact .inr (.inl (eq_encode_of_decode hd))
  · exact absurd hne (not_digestDiffers (by simp) (by simp))
  · exact .inr (.inr (eq_encode_of_decode hd))

/-- Settles O33: of the busy edges only the tail of a FINALIZE shows a digest, and no UPDATE touches one. -/
theorem digestWriters : Obligations.DigestWriters := by
  unfold Obligations.DigestWriters
  intro s t hstep hne
  obtain ⟨hr, -⟩ | ⟨hb, hbusy⟩ | ⟨hacc, hword⟩ | rfl := step_cases hstep
  · exact .inl hr
  · exact .inr (.inr ⟨hb, busyEdge_digest_writers (s := s.popInput) hbusy hne⟩)
  · exact .inr (.inl ⟨hacc, acceptWord_digest_writers (s := s.popInput) hword hne⟩)
  · exact absurd hne (not_digestDiffers rfl rfl)

end Sys2Proof.Machine
end

section
/-! PROOFS. No command reads the engine's elements (rule R33): from states with the same context it leaves states with
the same context. -/

namespace Sys2Proof

open Sys2Proof.Machine

variable {s s' : State}

theorem SameContext.after_cmdError (h : SameContext s s') (c : ErrCode) :
    SameContext (cmdError c s) (cmdError c s') := by
  obtain ⟨-, -, -, -, hp, he, -, -⟩ := h
  exact ⟨rfl, rfl, rfl, rfl, rfl, by simp [hp, he], rfl, rfl⟩

theorem sameContext_initContext (s s' : State) : SameContext (initContext s) (initContext s') :=
  ⟨rfl, rfl, rfl, rfl, rfl, rfl, rfl, rfl⟩

theorem SameContext.after_updateContext (h : SameContext s s') (n : BitVec 3) (d : Word) :
    SameContext (updateContext n d s) (updateContext n d s') := by
  obtain ⟨hh, hb, hl, ht, hp, he, hd, hv⟩ := h
  by_cases hw : s.bufLen.toNat + n.toNat < 64
  · rw [updateContext_within n d s hw, updateContext_within n d s' (hl ▸ hw)]
    exact ⟨hh, by rw [hb, hl], by rw [hl], by rw [ht], hp, he, hd, hv⟩
  · rw [updateContext_across n d s (by omega), updateContext_across n d s' (hl ▸ by omega)]
    exact ⟨by simp only [runEngine_h, hh, hb, hl], by rw [hl], by rw [hl], by rw [ht], hp, he, hd, hv⟩

/-- The H that FINALIZE shows as the digest. -/
theorem SameContext.padAndCompress_h (h : SameContext s s') (l : BitVec 64) :
    (padAndCompress l s).h = (padAndCompress l s').h := by
  obtain ⟨hh, hb, hl, -, -, -, -, -⟩ := h
  by_cases hw : s.bufLen.toNat < 56
  · rw [padAndCompress_one l s hw, padAndCompress_one l s' (hl ▸ hw)]
    simp only [runEngine_h, hh, hb, hl]
  · rw [padAndCompress_two l s (by omega), padAndCompress_two l s' (hl ▸ by omega)]
    simp only [runEngine_h, hh, hb, hl]

theorem SameContext.after_finalizeContext (h : SameContext s s') :
    SameContext (finalizeContext s) (finalizeContext s') := by
  have hd := h.padAndCompress_h (bitLength s)
  obtain ⟨-, -, -, ht, -, he, -, -⟩ := h
  have hl : bitLength s' = bitLength s := by rw [bitLength, bitLength, ht]
  simp [SameContext, he, hl, hd]

theorem SameContext.updateError_eq (h : SameContext s s') (n : BitVec 3) : updateError n s' = updateError n s := by
  obtain ⟨-, -, -, ht, hp, -, -, -⟩ := h
  rw [updateError, updateError, ht, hp]

theorem SameContext.finalizeError_eq (h : SameContext s s') : finalizeError s' = finalizeError s := by
  obtain ⟨-, -, -, -, hp, -, -, -⟩ := h
  rw [finalizeError, finalizeError, hp]

/-- A command leaves the same context from two states with the same context. -/
theorem SameContext.after_exec (h : SameContext s s') (i : Instr) :
    ∃ u u' : State, exec i s = .next u ∧ exec i s' = .next u' ∧ SameContext u u' := by
  rcases i with _ | _ | ⟨n, d⟩ | _
  · exact ⟨s, s', rfl, rfl, h⟩
  · exact ⟨_, _, rfl, rfl, sameContext_initContext s s'⟩
  · refine ⟨_, _, exec_update n d s, exec_update n d s', ?_⟩
    rw [h.updateError_eq n]
    cases updateError n s with
    | none => exact h.after_updateContext n d
    | some c => exact h.after_cmdError c
  · refine ⟨_, _, exec_finalize s, exec_finalize s', ?_⟩
    rw [h.finalizeError_eq]
    cases finalizeError s with
    | none => exact h.after_finalizeContext
    | some c => exact h.after_cmdError c

/-- Settles O34: the two states differ in no element of the context. -/
theorem engineScratchIsInvisible : Obligations.EngineScratchIsInvisible := by
  unfold Obligations.EngineScratchIsInvisible
  intro i s work wr t e q busy
  have h : SameContext s { s with work := work, wr := wr, t := t, estate := e, seq := q, busy := busy } :=
    ⟨rfl, rfl, rfl, rfl, rfl, rfl, rfl, rfl⟩
  exact h.after_exec i

end Sys2Proof
end

section
/-! PROOFS. The reset values and the STATUS register's fields (rules R22, R27, R28, R35, R96). -/

namespace Sys2Proof.Machine

/-- A field above the low part of a concatenation is read from the rest. -/
theorem extractLsb'_append_skip {v w start len : Nat} {x : BitVec v} {y : BitVec w} {z : BitVec len}
    (hw : w ≤ start) (hz : x.extractLsb' (start - w) len = z) : (x ++ y).extractLsb' start len = z :=
  (BitVec.extractLsb'_append_eq_of_le hw).trans hz

section
variable (s : State)

theorem statusRegister_phase : s.statusRegister.extractLsb' 0 2 = phaseBits s.phase :=
  BitVec.extractLsb'_append_eq_right

theorem statusRegister_busy : s.statusRegister.extractLsb' 2 1 = BitVec.ofBool s.busy :=
  extractLsb'_append_skip (by decide) BitVec.extractLsb'_append_eq_right

theorem statusRegister_digestValid : s.statusRegister.extractLsb' 3 1 = BitVec.ofBool s.digestValid :=
  extractLsb'_append_skip (by decide) <| extractLsb'_append_skip (by decide) BitVec.extractLsb'_append_eq_right

theorem statusRegister_errCode : s.statusRegister.extractLsb' 4 3 = errBits s.errCode :=
  extractLsb'_append_skip (by decide) <| extractLsb'_append_skip (by decide) <|
    extractLsb'_append_skip (by decide) BitVec.extractLsb'_append_eq_right

theorem statusRegister_bit7 : s.statusRegister.extractLsb' 7 1 = 0 :=
  extractLsb'_append_skip (by decide) <| extractLsb'_append_skip (by decide) <|
    extractLsb'_append_skip (by decide) <| extractLsb'_append_skip (by decide) BitVec.extractLsb'_append_eq_right

theorem statusRegister_bufLen : s.statusRegister.extractLsb' 8 6 = s.bufLen :=
  extractLsb'_append_skip (by decide) <| extractLsb'_append_skip (by decide) <|
    extractLsb'_append_skip (by decide) <| extractLsb'_append_skip (by decide) <|
    extractLsb'_append_skip (by decide) BitVec.extractLsb'_append_eq_right

theorem statusRegister_top : s.statusRegister.extractLsb' 14 18 = 0 :=
  extractLsb'_append_skip (by decide) <| extractLsb'_append_skip (by decide) <|
    extractLsb'_append_skip (by decide) <| extractLsb'_append_skip (by decide) <|
    extractLsb'_append_skip (by decide) <| extractLsb'_append_skip (by decide) BitVec.extractLsb'_eq_self

end

/-- A field that the mask of the STATUS fields leaves out reads 0 while BUSY = 1 (log entry 5). -/
theorem busyStatus_reserved {start len : Nat} (hm : statusFieldMask.extractLsb' start len = 0)
    (hb : (0x00000004 : BitVec 32).extractLsb' start len = 0) (x : BitVec 32) :
    ((x &&& statusFieldMask) ||| 0x00000004).extractLsb' start len = 0 := by
  rw [BitVec.extractLsb'_or, BitVec.extractLsb'_and, hm, hb]
  simp

/-- Settles O5: R35's table row by row. -/
theorem resetValues : Obligations.ResetValues := by
  unfold Obligations.ResetValues
  exact ⟨rfl, fun i => zeroBlock_get i i.isLt, rfl, rfl, rfl, rfl, rfl, rfl, rfl, rfl,
    fun i => Vector.getElem_replicate i.isLt, rfl, rfl, rfl, rfl⟩

/-- Settles O35: each field is read past those below it. -/
theorem statusLayout : Obligations.StatusLayout := by
  unfold Obligations.StatusLayout
  intro s
  exact ⟨statusRegister_phase s, statusRegister_busy s, statusRegister_digestValid s, statusRegister_errCode s,
    statusRegister_bit7 s, statusRegister_bufLen s, statusRegister_top s, ⟨rfl, rfl, rfl⟩, rfl, rfl, rfl, rfl, rfl⟩

/-- Settles O36: the register holds zeros there, and while BUSY = 1 the mask of the free value does. -/
theorem statusReservedBitsZero : Obligations.StatusReservedBitsZero := by
  unfold Obligations.StatusReservedBitsZero
  intro k s
  unfold State.statusPort
  split_ifs
  · exact ⟨busyStatus_reserved (by decide) (by decide) _, busyStatus_reserved (by decide) (by decide) _⟩
  · exact ⟨statusRegister_bit7 s, statusRegister_top s⟩

end Sys2Proof.Machine
end

section
/-! PROOFS. The context holds the message: what INIT and the beats of a message leave in totalLen, bufLen, buf and H
(rules R17 to R20, R85 to R88). The bytes are absorbed one by one; how they are cut into beats does not matter. -/

namespace Sys2Proof.Machine

/-! ### Blocks of a message -/

theorem toBlock_get (bs : List Byte) (i : Nat) (h : i < 64) : (toBlock bs)[i] = bs.getD i 0 := by
  simp [toBlock]

theorem toBlock_nil : toBlock [] = zeroBlock := by
  apply Vector.ext
  intro i h
  rw [toBlock_get _ i h, zeroBlock_get i h]
  rfl

/-- A byte placed after the bytes a block holds. -/
theorem fillBlock_toBlock (bs : List Byte) (b : Byte) : fillBlock bs.length [b] (toBlock bs) = toBlock (bs ++ [b]) := by
  apply Vector.ext
  intro i h
  rw [fillBlock_get, toBlock_get _ i h, toBlock_get _ i h, List.length_singleton]
  rcases lt_trichotomy i bs.length with hi | rfl | hi
  · rw [if_neg (by omega), List.getD_append _ _ _ _ hi]
  · simp
  · rw [if_neg (by omega), List.getD_eq_default _ _ (by omega), List.getD_eq_default _ _ (by simp; omega)]

/-- Bytes after the first `n` blocks do not matter to them. -/
theorem takeBlocks_append (n : Nat) (m m' : List Byte) (h : 64 * n ≤ m.length) :
    takeBlocks n (m ++ m') = takeBlocks n m := by
  induction n generalizing m with
  | zero => rfl
  | succ n ih =>
    have hb : toBlock (m ++ m') = toBlock m := by
      apply Vector.ext
      intro i hi
      rw [toBlock_get _ i hi, toBlock_get _ i hi, List.getD_append _ _ _ _ (by omega)]
    rw [takeBlocks, takeBlocks, hb, List.drop_append_of_le_length (by omega), ih _ (by rw [List.length_drop]; omega)]

/-- The last of `n + 1` blocks. -/
theorem takeBlocks_succ (n : Nat) (m : List Byte) :
    takeBlocks (n + 1) m = takeBlocks n m ++ [toBlock (m.drop (64 * n))] := by
  induction n generalizing m with
  | zero => rfl
  | succ n ih =>
    rw [takeBlocks, ih, takeBlocks, List.drop_drop, List.cons_append, show 64 + 64 * n = 64 * (n + 1) by omega]

/-! ### The buffer and H -/

/-- The bytes of a message that stand in no full block. -/
def restBytes (m : List Byte) : List Byte := m.drop (64 * (m.length / 64))

theorem restBytes_length (m : List Byte) : (restBytes m).length = m.length % 64 := by
  rw [restBytes, List.length_drop]
  omega

/-- The context has absorbed the bytes `m` since INIT: the full blocks are compressed into H, the rest stands in buf
(R17, R18, R19). -/
structure Absorbed (m : List Byte) (s : State) : Prop where
  bufLen_eq : s.bufLen.toNat = m.length % 64
  buf_eq : s.buf = toBlock (restBytes m)
  h_eq : s.h = (takeBlocks (m.length / 64) m).foldl compress iv

theorem absorbed_initContext (s : State) : Absorbed [] (initContext s) where
  bufLen_eq := rfl
  buf_eq := toBlock_nil.symm
  h_eq := rfl

/-- The buffer after one more byte, before it is compressed if it is full. -/
theorem Absorbed.filled {m : List Byte} {s : State} (h : Absorbed m s) (b : Byte) :
    fillBlock s.bufLen.toNat [b] s.buf = toBlock ((m ++ [b]).drop (64 * (m.length / 64))) := by
  rw [h.bufLen_eq, h.buf_eq, ← restBytes_length, fillBlock_toBlock, restBytes,
    List.drop_append_of_le_length (by omega)]

theorem Absorbed.absorb {m : List Byte} {s : State} (h : Absorbed m s) (b : Byte) :
    Absorbed (m ++ [b]) (absorb b s) := by
  have hfill := h.filled b
  have hlen := h.bufLen_eq
  by_cases hfull : s.bufLen.toNat = 63
  · have hq : (m ++ [b]).length / 64 = m.length / 64 + 1 := by simp; omega
    rw [absorb_full b s hfull, hfill]
    refine ⟨?_, ?_, ?_⟩
    · simp; omega
    · have hrest : restBytes (m ++ [b]) = [] := List.drop_eq_nil_of_le (by rw [hq]; simp; omega)
      rw [hrest, toBlock_nil]
    · rw [hq, takeBlocks_succ, takeBlocks_append _ _ _ (by omega), List.foldl_append, ← h.h_eq]
      rfl
  · have hq : (m ++ [b]).length / 64 = m.length / 64 := by simp; omega
    rw [absorb_within b s (by omega), hfill]
    refine ⟨?_, ?_, ?_⟩
    · rw [BitVec.toNat_add]
      simp; omega
    · rw [restBytes, hq]
    · rw [hq, takeBlocks_append _ _ _ (by omega)]
      exact h.h_eq

theorem Absorbed.absorbAll {m : List Byte} {s : State} (h : Absorbed m s) (ms : List Byte) :
    Absorbed (m ++ ms) (absorbAll ms s) := by
  induction ms generalizing m s with
  | nil => simpa using h
  | cons b ms ih =>
    rw [absorbAll_cons, List.append_cons]
    exact ih (h.absorb b)

/-! ### The beats -/

/-- The context after INIT and the bytes `m`: absorbed and counted, with no error and no digest (R17 to R20, R85). -/
structure HoldsMessage (m : List Byte) (s : State) : Prop where
  absorbed : Absorbed m s
  totalLen_eq : s.totalLen.toNat = m.length
  phase_eq : s.phase = .active
  errCode_eq : s.errCode = .none
  digestValid_eq : s.digestValid = false

theorem holdsMessage_initContext (s : State) : HoldsMessage [] (initContext s) where
  absorbed := absorbed_initContext s
  totalLen_eq := rfl
  phase_eq := rfl
  errCode_eq := rfl
  digestValid_eq := rfl

/-- A beat within the length limit adds its bytes to the message (R86, R88). -/
theorem HoldsMessage.beat {m : List Byte} {s : State} (h : HoldsMessage m s) {n : BitVec 3} (d : Word)
    (hn : n.toNat ≤ 4) (hmax : (m ++ beatBytes n d).length ≤ 2 ^ 61 - 1) :
    ∃ t : State, acceptWord (encode (.update n d)) s = .next t ∧ HoldsMessage (m ++ beatBytes n d) t := by
  have htot : s.totalLen.toNat + n.toNat ≤ 2 ^ 61 - 1 := by
    rw [h.totalLen_eq]
    simpa using hmax
  have herr : updateError n s = none := updateError_eq_none_iff.2 ⟨hn, h.phase_eq, htot⟩
  refine ⟨updateContext n d s, ?_, ?_, ?_, ?_, ?_, ?_⟩
  · have hwf : (Instr.update n d).wellFormed = true := decide_eq_true hn
    rw [acceptWord_encode hwf, exec_update, herr]
  · obtain ⟨hl, hb, hh⟩ := h.absorbed.absorbAll (beatBytes n d)
    exact ⟨hl, hb, hh⟩
  · rw [updateContext_totalLen, totalLen_add_toNat htot, h.totalLen_eq, List.length_append, beatBytes_length]
  · simpa using h.phase_eq
  · simpa using h.errCode_eq
  · simpa using h.digestValid_eq

theorem HoldsMessage.beats {m : List Byte} {s : State} (h : HoldsMessage m s) (beats : List (BitVec 3 × Word))
    (hlen : ∀ b ∈ beats, b.1.toNat ≤ 4) (hmax : (m ++ beatsMessage beats).length ≤ 2 ^ 61 - 1) :
    ∃ t : State, acceptAll ((beatCommands beats).map encode) s = .next t ∧
      HoldsMessage (m ++ beatsMessage beats) t := by
  induction beats generalizing m s with
  | nil => exact ⟨s, rfl, by simpa [beatsMessage] using h⟩
  | cons b beats ih =>
    have hmsg : m ++ beatsMessage (b :: beats) = m ++ beatBytes b.1 b.2 ++ beatsMessage beats := by
      simp [beatsMessage]
    rw [hmsg] at hmax ⊢
    obtain ⟨u, hu, hmu⟩ := h.beat b.2 (hlen b (by simp)) (by rw [List.length_append] at hmax; omega)
    obtain ⟨t, ht, hmt⟩ := ih hmu (fun c hc => hlen c (by simp [hc])) hmax
    exact ⟨t, (acceptAll_next _ hu).trans ht, hmt⟩

/-- After INIT and the beats, from any state, the context holds the message they carry. -/
theorem acceptAll_messageCommands (s : State) (beats : List (BitVec 3 × Word)) (hlen : ∀ b ∈ beats, b.1.toNat ≤ 4)
    (hmax : (beatsMessage beats).length ≤ 2 ^ 61 - 1) :
    ∃ t : State, acceptAll ((messageCommands beats).map encode) s = .next t ∧ HoldsMessage (beatsMessage beats) t := by
  obtain ⟨t, ht, hm⟩ := (holdsMessage_initContext s).beats beats hlen hmax
  exact ⟨t, (acceptAll_next _ (acceptWord_encode (i := .init) rfl s)).trans ht, hm⟩

/-- The bytes of buf, one by one. -/
theorem Absorbed.buf_get {m : List Byte} {s : State} (h : Absorbed m s) (i : Fin 64) :
    s.buf[i] = if i.val < m.length % 64 then m.getD (64 * (m.length / 64) + i.val) 0 else 0 := by
  rw [h.buf_eq, Fin.getElem_fin, toBlock_get _ _ i.isLt]
  split_ifs with hi
  · simp [restBytes, List.getD_eq_getElem?_getD]
  · exact List.getD_eq_default _ _ (by rw [restBytes_length]; omega)

/-- Settles O55: INIT's context holds the empty message and every beat adds its bytes. -/
theorem contextHoldsTheMessage : Obligations.ContextHoldsTheMessage := by
  unfold Obligations.ContextHoldsTheMessage
  intro s beats hlen hmax
  obtain ⟨t, ht, hm⟩ := acceptAll_messageCommands s beats hlen hmax
  exact ⟨t, ht, hm.totalLen_eq, hm.absorbed.bufLen_eq, hm.absorbed.buf_get, hm.absorbed.h_eq, hm.phase_eq,
    hm.errCode_eq, hm.digestValid_eq⟩

end Sys2Proof.Machine
end

section
/-! PROOFS. The acceptance of a word always completes, keeps BUSY, SEQ and the coming inputs, and does not look at the
inputs; so a run of the step is the acceptance of the presented words (rules R45, R48, R83). -/

namespace Sys2Proof.Machine

/-! ### The acceptance of a word completes -/

theorem exec_next (i : Instr) (s : State) : ∃ t, exec i s = .next t := by
  rcases i with _ | _ | ⟨n, d⟩ | _
  · exact ⟨s, rfl⟩
  · exact ⟨initContext s, rfl⟩
  · exact ⟨_, exec_update n d s⟩
  · exact ⟨_, exec_finalize s⟩

theorem acceptWord_next (w : CmdWord) (s : State) : ∃ t, acceptWord w s = .next t := by
  unfold acceptWord
  rcases decode w with i | e
  · exact exec_next i s
  · exact ⟨_, rfl⟩

/-- What every accepted word keeps. -/
theorem acceptWord_keeps {w : CmdWord} {s t : State} (h : acceptWord w s = .next t) :
    t.busy = s.busy ∧ t.seq = s.seq ∧ t.inputs = s.inputs := by
  obtain ⟨c, -, rfl⟩ | ⟨-, ⟨-, rfl⟩ | ⟨-, rfl⟩ | ⟨n, d, -, -, rfl⟩ | ⟨-, -, rfl⟩⟩ := acceptWord_cases h <;> simp

/-- Settles O15: the acceptance is total, and each of its outcomes keeps the three elements. -/
theorem everyAcceptedWordCompletes : Obligations.EveryAcceptedWordCompletes := by
  unfold Obligations.EveryAcceptedWordCompletes
  intro w s
  obtain ⟨t, ht⟩ := acceptWord_next w s
  exact ⟨t, ht, acceptWord_keeps ht⟩

theorem withInputs_self {s : State} {ins : List Input} (h : s.inputs = ins) : { s with inputs := ins } = s := by
  subst h
  rfl

/-! ### The acceptance of a word does not look at the coming inputs -/

section
variable (s : State) (ins : List Input)

theorem absorb_withInputs (m : Byte) : absorb m { s with inputs := ins } = { absorb m s with inputs := ins } := by
  unfold absorb
  split <;> rfl

theorem absorbAll_withInputs (ms : List Byte) :
    absorbAll ms { s with inputs := ins } = { absorbAll ms s with inputs := ins } := by
  induction ms generalizing s with
  | nil => rfl
  | cons m ms ih => rw [absorbAll_cons, absorbAll_cons, absorb_withInputs, ih]

theorem updateContext_withInputs (n : BitVec 3) (d : Word) :
    updateContext n d { s with inputs := ins } = { updateContext n d s with inputs := ins } := by
  unfold updateContext
  rw [absorbAll_withInputs]

theorem padAndCompress_withInputs (l : BitVec 64) :
    padAndCompress l { s with inputs := ins } = { padAndCompress l s with inputs := ins } := by
  by_cases h : s.bufLen.toNat < 56
  · rw [padAndCompress_one l s h, padAndCompress_one l { s with inputs := ins } h]
    rfl
  · rw [padAndCompress_two l s (by omega), padAndCompress_two l { s with inputs := ins } (Nat.not_lt.1 h)]
    rfl

theorem finalizeContext_withInputs :
    finalizeContext { s with inputs := ins } = { finalizeContext s with inputs := ins } := by
  have hl : bitLength { s with inputs := ins } = bitLength s := rfl
  unfold finalizeContext
  rw [hl, padAndCompress_withInputs]
  rfl

theorem exec_withInputs {s t : State} {i : Instr} (h : exec i s = .next t) :
    exec i { s with inputs := ins } = .next { t with inputs := ins } := by
  rcases i with _ | _ | ⟨n, d⟩ | _
  · cases h
    rfl
  · cases h
    rfl
  · rw [exec_update] at h ⊢
    cases h
    have he : updateError n { s with inputs := ins } = updateError n s := rfl
    rw [he]
    cases updateError n s with
    | some c => rfl
    | none => exact congrArg _ (updateContext_withInputs s ins n d)
  · rw [exec_finalize] at h ⊢
    cases h
    have he : finalizeError { s with inputs := ins } = finalizeError s := rfl
    rw [he]
    cases finalizeError s with
    | some c => rfl
    | none => exact congrArg _ (finalizeContext_withInputs s ins)

theorem acceptWord_withInputs {w : CmdWord} {s t : State} (h : acceptWord w s = .next t) :
    acceptWord w { s with inputs := ins } = .next { t with inputs := ins } := by
  unfold acceptWord at h ⊢
  rcases hd : decode w with i | e <;> rw [hd] at h
  · exact exec_withInputs ins h
  · cases h
    rfl

end

/-! ### Runs -/

/-- The words a host presents at the coming edges, in order. -/
def presentedWords (ins : List Input) : List CmdWord := (ins.filter (·.cmdValid)).map (·.cmd)

theorem presentedWords_cons_valid {x : Input} (ins : List Input) (h : x.cmdValid = true) :
    presentedWords (x :: ins) = x.cmd :: presentedWords ins := by
  simp [presentedWords, h]

theorem presentedWords_cons_quiet {x : Input} (ins : List Input) (h : x.cmdValid = false) :
    presentedWords (x :: ins) = presentedWords ins := by
  simp [presentedWords, h]

/-- The step at a presented word. -/
theorem step_valid {s t : State} {x : Input} (ins : List Input) (hb : s.busy = false) (hr : x.rst = false)
    (hv : x.cmdValid = true) (h : acceptWord x.cmd { s with inputs := [] } = .next t) :
    step { s with inputs := x :: ins } = .next { t with inputs := ins } := by
  have hacc : ({ s with inputs := x :: ins } : State).accepts = true := (accepts_iff _).2 ⟨hr, hb, hv⟩
  rw [step_accepts hacc]
  exact acceptWord_withInputs (s := { s with inputs := [] }) ins h

/-- The step at an edge without reset at which nothing is presented. -/
theorem step_quiet {s : State} {x : Input} (ins : List Input) (hb : s.busy = false) (hr : x.rst = false)
    (hv : x.cmdValid = false) : step { s with inputs := x :: ins } = .next { s with inputs := ins } := by
  simp [step, edgeWith, State.nextInput, State.popInput, hb, hr, hv]

/-- A run without reset over any edges accepts the presented words in order. -/
theorem core_run_eq_acceptAll (s : State) (ins : List Input) (hb : s.busy = false) (hr : ∀ x ∈ ins, x.rst = false) :
    Host.Core.run core ins.length ({ s with inputs := ins } : State) =
      acceptAll (presentedWords ins) { s with inputs := [] } := by
  induction ins generalizing s with
  | nil => rfl
  | cons x ins ih =>
    obtain ⟨hx, hins⟩ := List.forall_mem_cons.1 hr
    cases hv : x.cmdValid with
    | false =>
      rw [presentedWords_cons_quiet ins hv]
      exact (core_run_next _ (step_quiet ins hb hx hv)).trans (ih s hb hins)
    | true =>
      obtain ⟨t, ht⟩ := acceptWord_next x.cmd { s with inputs := [] }
      obtain ⟨htb, -, hti⟩ := acceptWord_keeps ht
      rw [presentedWords_cons_valid ins hv, acceptAll_next _ ht]
      have hrun := ih t (htb.trans hb) hins
      rw [withInputs_self hti] at hrun
      exact (core_run_next _ (step_valid ins hb hx hv ht)).trans hrun

/-- Settles O14: each edge without reset accepts its word whole or changes nothing. -/
theorem runIsTheAcceptedSequence : Obligations.RunIsTheAcceptedSequence := by
  unfold Obligations.RunIsTheAcceptedSequence
  intro s ins hb hr
  exact core_run_eq_acceptAll s ins hb hr

end Sys2Proof.Machine
end

section
/-! PROOFS. The beats of a message, from any ACTIVE context, leave what absorbing its bytes one by one leaves, however
they are cut (rules R42, R49, R86, R87). -/

namespace Sys2Proof.Machine

/-- The bytes `ms` absorbed and counted (R86). -/
def absorbMessage (ms : List Byte) (s : State) : State :=
  { absorbAll ms s with totalLen := BitVec.ofNat 64 (s.totalLen.toNat + ms.length) }

/-- Absorbing does not look at the count, which UPDATE writes after it. -/
theorem absorb_withTotalLen (m : Byte) (s : State) (l : BitVec 64) :
    absorb m { s with totalLen := l } = { absorb m s with totalLen := l } := by
  unfold absorb
  split <;> rfl

theorem absorbAll_withTotalLen (ms : List Byte) (s : State) (l : BitVec 64) :
    absorbAll ms { s with totalLen := l } = { absorbAll ms s with totalLen := l } := by
  induction ms generalizing s with
  | nil => rfl
  | cons m ms ih => rw [absorbAll_cons, absorbAll_cons, absorb_withTotalLen, ih]

theorem absorbMessage_nil (s : State) : absorbMessage [] s = s := by
  simp [absorbMessage]

/-- Absorbing the first bytes and then the others is absorbing them all. -/
theorem absorbMessage_append (ms ms' : List Byte) (s : State)
    (h : s.totalLen.toNat + ms.length ≤ 2 ^ 61 - 1) :
    absorbMessage ms' (absorbMessage ms s) = absorbMessage (ms ++ ms') s := by
  have hlen : (BitVec.ofNat 64 (s.totalLen.toNat + ms.length)).toNat = s.totalLen.toNat + ms.length := by
    rw [BitVec.toNat_ofNat]
    omega
  simp only [absorbMessage, absorbAll_withTotalLen, absorbAll_append, hlen, List.length_append, Nat.add_assoc]

theorem updateContext_eq_absorbMessage {n : BitVec 3} (d : Word) {s : State}
    (h : s.totalLen.toNat + n.toNat ≤ 2 ^ 61 - 1) : updateContext n d s = absorbMessage (beatBytes n d) s := by
  have hlen : s.totalLen + n.setWidth 64 = BitVec.ofNat 64 (s.totalLen.toNat + n.toNat) := by
    rw [← totalLen_add_toNat h, BitVec.ofNat_toNat, BitVec.setWidth_eq]
  simp only [updateContext, absorbMessage, beatBytes_length, hlen]

/-- A beat within the length limit, in ACTIVE. -/
theorem exec_update_eq_absorbMessage {s : State} {n : BitVec 3} (d : Word) (hp : s.phase = .active)
    (hn : n.toNat ≤ 4) (h : s.totalLen.toNat + n.toNat ≤ 2 ^ 61 - 1) :
    exec (.update n d) s = .next (absorbMessage (beatBytes n d) s) := by
  rw [exec_update, updateError_eq_none_iff.2 ⟨hn, hp, h⟩, updateContext_eq_absorbMessage d h]

theorem beatsMessage_cons (b : BitVec 3 × Word) (beats : List (BitVec 3 × Word)) :
    beatsMessage (b :: beats) = beatBytes b.1 b.2 ++ beatsMessage beats := by
  simp [beatsMessage]

/-- The beats of a message within the length limit, in ACTIVE: the cut does not show. -/
theorem acceptAll_beats {s : State} (beats : List (BitVec 3 × Word)) (hp : s.phase = .active)
    (hlen : ∀ b ∈ beats, b.1.toNat ≤ 4)
    (hmax : s.totalLen.toNat + (beatsMessage beats).length ≤ 2 ^ 61 - 1) :
    acceptAll ((beatCommands beats).map encode) s = .next (absorbMessage (beatsMessage beats) s) := by
  induction beats generalizing s with
  | nil => exact congrArg _ (absorbMessage_nil s).symm
  | cons b beats ih =>
    obtain ⟨hb, hbeats⟩ := List.forall_mem_cons.1 hlen
    rw [beatsMessage_cons, List.length_append, beatBytes_length] at hmax
    have hwf : (Instr.update b.1 b.2).wellFormed = true := decide_eq_true hb
    have hfirst : acceptWord (encode (.update b.1 b.2)) s = .next (absorbMessage (beatBytes b.1 b.2) s) := by
      rw [acceptWord_encode hwf, exec_update_eq_absorbMessage b.2 hp hb (by omega)]
    have hcount : (absorbMessage (beatBytes b.1 b.2) s).totalLen.toNat = s.totalLen.toNat + b.1.toNat := by
      simp only [absorbMessage, BitVec.toNat_ofNat, beatBytes_length]
      omega
    have hrest := ih (s := absorbMessage (beatBytes b.1 b.2) s) (by simpa [absorbMessage] using hp) hbeats
      (by rw [hcount]; omega)
    calc acceptAll ((beatCommands (b :: beats)).map encode) s
        = acceptAll ((beatCommands beats).map encode) (absorbMessage (beatBytes b.1 b.2) s) := acceptAll_next _ hfirst
      _ = .next (absorbMessage (beatsMessage beats) (absorbMessage (beatBytes b.1 b.2) s)) := hrest
      _ = .next (absorbMessage (beatsMessage (b :: beats)) s) := by
          rw [absorbMessage_append _ _ _ (by rw [beatBytes_length]; omega), beatsMessage_cons]

/-! ### One beat as beats of one byte -/

/-- The bytes of a beat as beats of one byte each (R42). -/
def singleByteBeats (n : BitVec 3) (d : Word) : List (BitVec 3 × Word) :=
  (List.range n.toNat).map fun j => (1, beatByte d j ++ 0#24)

theorem beatBytes_singleByte (m : Byte) : beatBytes 1 (m ++ 0#24) = [m] := by
  have hbyte : beatByte (m ++ 0#24) 0 = m := BitVec.extractLsb'_append_eq_left
  simp [beatBytes, hbyte]

theorem beatsMessage_singleByteBeats (n : BitVec 3) (d : Word) :
    beatsMessage (singleByteBeats n d) = beatBytes n d := by
  simp only [beatsMessage, singleByteBeats, List.flatMap_map, beatBytes_singleByte]
  exact List.map_eq_flatMap.symm

theorem encode_singleByteBeats (n : BitVec 3) (d : Word) :
    (beatCommands (singleByteBeats n d)).map encode =
      (List.range n.toNat).map fun j => encode (.update 1 (beatByte d j ++ 0#24)) := by
  simp [beatCommands, singleByteBeats]

/-- Settles O23: the single bytes are another cut of the beat's bytes. -/
theorem updateIsItsSingleBytes : Obligations.UpdateIsItsSingleBytes := by
  unfold Obligations.UpdateIsItsSingleBytes
  intro s n d hp hn hmax
  have hone : ∀ b ∈ singleByteBeats n d, b.1.toNat ≤ 4 := by
    intro b hb
    obtain ⟨j, -, rfl⟩ := List.mem_map.1 hb
    exact (by decide : (1 : BitVec 3).toNat ≤ 4)
  have hsingle := acceptAll_beats (singleByteBeats n d) hp hone
    (by rwa [beatsMessage_singleByteBeats, beatBytes_length])
  rw [beatsMessage_singleByteBeats, encode_singleByteBeats] at hsingle
  exact (exec_update_eq_absorbMessage d hp hn hmax).trans hsingle.symm

/-! ### Two cuts of a message -/

/-- INIT and the beats, from any state: the state they leave is a function of the message's bytes. -/
theorem acceptAll_messageCommands_eq (s : State) {cut : List (BitVec 3 × Word)} (hlen : ∀ b ∈ cut, b.1.toNat ≤ 4)
    (hmax : (beatsMessage cut).length ≤ 2 ^ 61 - 1) :
    acceptAll ((messageCommands cut).map encode) s = .next (absorbMessage (beatsMessage cut) (initContext s)) :=
  calc acceptAll ((messageCommands cut).map encode) s
      = acceptAll ((beatCommands cut).map encode) (initContext s) :=
        acceptAll_next _ (acceptWord_encode (i := .init) rfl s)
    _ = .next (absorbMessage (beatsMessage cut) (initContext s)) := acceptAll_beats cut rfl hlen (by simpa using hmax)

/-- The same with FINALIZE after the beats. -/
theorem acceptAll_hashCommands_eq (s : State) {cut : List (BitVec 3 × Word)} (hlen : ∀ b ∈ cut, b.1.toNat ≤ 4)
    (hmax : (beatsMessage cut).length ≤ 2 ^ 61 - 1) :
    acceptAll ((hashCommands cut).map encode) s =
      acceptAll [encode .finalize] (absorbMessage (beatsMessage cut) (initContext s)) := by
  rw [hashCommands, List.map_append]
  exact acceptAll_append _ (acceptAll_messageCommands_eq s hlen hmax)

/-- Settles O57: the state after the beats is a function of the message, and FINALIZE completes. -/
theorem chunkingInvariance : Obligations.ChunkingInvariance := by
  unfold Obligations.ChunkingInvariance
  intro s cut cut' hlen hlen' hmsg hmax
  have hmax' : (beatsMessage cut').length ≤ 2 ^ 61 - 1 := hmsg ▸ hmax
  refine ⟨⟨_, acceptAll_messageCommands_eq s hlen hmax, ?_⟩, ?_⟩
  · rw [acceptAll_messageCommands_eq s hlen' hmax', hmsg]
  · obtain ⟨t, ht⟩ := acceptWord_next (encode .finalize) (absorbMessage (beatsMessage cut) (initContext s))
    have hfin : acceptAll ((hashCommands cut).map encode) s = .next t :=
      (acceptAll_hashCommands_eq s hlen hmax).trans (acceptAll_next [] ht)
    refine ⟨t, hfin, ?_⟩
    rw [acceptAll_hashCommands_eq s hlen' hmax', ← hmsg, ← acceptAll_hashCommands_eq s hlen hmax, hfin]

end Sys2Proof.Machine
end

section
/-! PROOFS. Words and their bytes, the digest port, and the first words of a schedule (rules R11, R38, R40, R41,
R73). -/

namespace Sys2Proof.Machine

/-! ### The bytes of a word -/

/-- A word is its four bytes, most significant first (R11). -/
theorem be32_beatBytes (d : Word) : be32 (beatByte d 0) (beatByte d 1) (beatByte d 2) (beatByte d 3) = d := by
  apply BitVec.eq_of_getLsbD_eq
  intro i hi
  simp only [be32, beatByte, BitVec.getLsbD_append, BitVec.getLsbD_extractLsb']
  split_ifs with h₀ h₁ h₂
  · simp [h₀]
  · rw [show 24 - 8 * 2 + (i - 8) = i by omega]
    simp [h₁]
  · rw [show 24 - 8 * 1 + (i - 8 - 8) = i by omega]
    simp [h₂]
  · rw [show 24 - 8 * 0 + (i - 8 - 8 - 8) = i by omega]
    simp [show i - 8 - 8 - 8 < 8 by omega]

theorem bytes32_getD (w : Word) {j : Nat} (hj : j < 4) : (bytes32 w).getD j 0 = beatByte w j := by
  interval_cases j <;> rfl

/-- The bytes of a list of words: four to a word, in order. -/
theorem flatMap_bytes32_getD (ws : List Word) {i j : Nat} (hi : i < ws.length) (hj : j < 4) :
    (ws.flatMap bytes32).getD (4 * i + j) 0 = beatByte (ws.getD i 0) j := by
  have hlen (w : Word) : (bytes32 w).length = 4 := rfl
  induction ws generalizing i with
  | nil => cases hi
  | cons w ws ih =>
    rw [List.flatMap_cons]
    cases i with
    | zero =>
      rw [List.getD_append _ _ _ _ (by rw [hlen]; omega), Nat.mul_zero, Nat.zero_add, bytes32_getD w hj,
        List.getD_cons_zero]
    | succ i =>
      rw [List.getD_append_right _ _ _ _ (by rw [hlen]; omega), hlen, List.getD_cons_succ,
        show 4 * (i + 1) + j - 4 = 4 * i + j by omega]
      exact ih (by simpa using hi)

/-! ### The digest port -/

/-- DIGEST[0] is the most significant word of the register (R40). -/
theorem digestRegister_word (s : State) {i : Nat} (hi : i < 8) :
    s.digestRegister.extractLsb' (224 - 32 * i) 32 = s.digest.toList.getD i 0 := by
  unfold State.digestRegister
  interval_cases i
  · iterate 7 refine extractLsb'_append_skip (by decide) ?_
    exact BitVec.extractLsb'_eq_self
  · iterate 6 refine extractLsb'_append_skip (by decide) ?_
    exact BitVec.extractLsb'_append_eq_right
  · iterate 5 refine extractLsb'_append_skip (by decide) ?_
    exact BitVec.extractLsb'_append_eq_right
  · iterate 4 refine extractLsb'_append_skip (by decide) ?_
    exact BitVec.extractLsb'_append_eq_right
  · iterate 3 refine extractLsb'_append_skip (by decide) ?_
    exact BitVec.extractLsb'_append_eq_right
  · iterate 2 refine extractLsb'_append_skip (by decide) ?_
    exact BitVec.extractLsb'_append_eq_right
  · iterate 1 refine extractLsb'_append_skip (by decide) ?_
    exact BitVec.extractLsb'_append_eq_right
  · exact BitVec.extractLsb'_append_eq_right

/-- A byte of a word of a register is a byte of the register. -/
theorem extractLsb'_word_byte {x : BitVec 256} {w : Word} {p : Nat} (hw : x.extractLsb' p 32 = w) {j : Nat}
    (hj : j < 4) : x.extractLsb' (p + (24 - 8 * j)) 8 = beatByte w j := by
  subst hw
  apply BitVec.eq_of_getLsbD_eq
  intro i hi
  simp [beatByte, Nat.add_assoc, hi, show 24 - 8 * j + i < 32 by omega]

/-- Settles O38: byte `k` is byte `k mod 4` of word `k / 4`, in the register and in the list of bytes. -/
theorem digestPortLayout : Obligations.DigestPortLayout := by
  unfold Obligations.DigestPortLayout
  intro m s hb
  have hport : s.digestPort m = s.digestRegister := by simp [State.digestPort, hb]
  rw [hport]
  refine ⟨fun i hi => digestRegister_word s hi, fun k hk => ?_⟩
  have hword := digestRegister_word s (i := k / 4) (by omega)
  have hbyte := extractLsb'_word_byte hword (j := k % 4) (by omega)
  have hlist := flatMap_bytes32_getD s.digest.toList (i := k / 4) (j := k % 4)
    (by simp only [Words8.toList, List.length_cons, List.length_nil]; omega) (by omega)
  rw [show 224 - 32 * (k / 4) + (24 - 8 * (k % 4)) = 248 - 8 * k by omega] at hbyte
  rw [Nat.div_add_mod] at hlist
  exact hbyte.trans hlist.symm

/-! ### The schedule's words -/

theorem extendSchedule_length (n : Nat) (w : List Word) : (extendSchedule n w).length = w.length + n := by
  induction n generalizing w with
  | zero => rfl
  | succ n ih =>
    rw [extendSchedule, ih, List.length_append, List.length_singleton]
    omega

/-- Carrying the schedule on keeps the words there are. -/
theorem extendSchedule_getD_of_lt (n : Nat) (w : List Word) {i : Nat} (hi : i < w.length) :
    (extendSchedule n w).getD i 0 = w.getD i 0 := by
  induction n generalizing w with
  | zero => rfl
  | succ n ih => rw [extendSchedule, ih _ (by simp; omega), List.getD_append _ _ _ _ hi]

/-- The first 16 words of a block's schedule are its packed bytes (R73). -/
theorem schedule_getD_of_lt (b : Block) {i : Nat} (hi : i < 16) :
    (schedule b).getD i 0 =
      be32 (b[4 * i]) (b[4 * i + 1]) (b[4 * i + 2]) (b[4 * i + 3]) := by
  rw [schedule, extendSchedule_getD_of_lt _ _ (by simpa using hi), List.getD_eq_getElem _ _ (by simpa using hi)]
  simp [blockWords]

/-- The bytes of a beat in the block it is laid over. -/
theorem fillBlock_beatBytes_get (b : Block) (n : BitVec 3) (d : Word) {i j : Nat} (hj : j < n.toNat)
    (h : i + j < 64) : (fillBlock i (beatBytes n d) b)[i + j] = beatByte d j := by
  rw [fillBlock_get, beatBytes_length, if_pos (by omega), Nat.add_sub_cancel_left, beatBytes_getD n d j hj]

/-- Settles O44: the four bytes of the word at `n / 4` are the beat's, and they are the word's bytes. -/
theorem alignedBeatIsOneScheduleWord : Obligations.AlignedBeatIsOneScheduleWord := by
  unfold Obligations.AlignedBeatIsOneScheduleWord
  intro b n d hn hlt
  have hword : 4 * (n / 4) = n := by omega
  have hbyte (j : Nat) (hj : j < 4) : (fillBlock n (beatBytes 4 d) b)[n + j] = beatByte d j :=
    fillBlock_beatBytes_get b 4 d hj (by omega)
  have hbyte₀ : (fillBlock n (beatBytes 4 d) b)[n] = beatByte d 0 := hbyte 0 (by omega)
  rw [schedule_getD_of_lt _ (by omega)]
  simp only [hword]
  rw [hbyte₀, hbyte 1 (by omega), hbyte 2 (by omega), hbyte 3 (by omega), be32_beatBytes]

end Sys2Proof.Machine
end

section
/-! PROOFS. A compression of the reference schedule, edge by edge: the schedule's recurrence, the window of it in `Wr`,
and what the LOAD, ROUND and ADD edges reach (rules R73 to R82, R117). -/

namespace Sys2Proof.Machine

/-! ### The schedule's recurrence -/

theorem extendSchedule_add (m n : Nat) (w : List Word) :
    extendSchedule (m + n) w = extendSchedule n (extendSchedule m w) := by
  induction m generalizing w with
  | zero => rw [Nat.zero_add, extendSchedule]
  | succ m ih => rw [Nat.add_right_comm, extendSchedule, extendSchedule, ih]

/-- Every word past the first ones is the recurrence of R73 on the words before it. -/
theorem extendSchedule_recurrence (n : Nat) {w : List Word} (hw : 16 ≤ w.length) {t : Nat} (ht : w.length ≤ t)
    (hn : t < w.length + n) :
    (extendSchedule n w).getD t 0 =
      smallSigma1 ((extendSchedule n w).getD (t - 2) 0) + (extendSchedule n w).getD (t - 7) 0
        + smallSigma0 ((extendSchedule n w).getD (t - 15) 0) + (extendSchedule n w).getD (t - 16) 0 := by
  induction n generalizing w with
  | zero => omega
  | succ n ih =>
    have hlen : (w ++ [scheduleNext w]).length = w.length + 1 := by simp
    rcases Nat.eq_or_lt_of_le ht with rfl | hlt
    · have hnew : (extendSchedule (n + 1) w).getD w.length 0 = scheduleNext w := by
        rw [extendSchedule, extendSchedule_getD_of_lt _ _ (by omega), List.getD_append_right _ _ _ _ le_rfl]
        simp
      have hold (j : Nat) (hj : 0 < j) : (extendSchedule (n + 1) w).getD (w.length - j) 0 = w.getD (w.length - j) 0 :=
        extendSchedule_getD_of_lt _ _ (by omega)
      rw [hnew, hold 2 (by omega), hold 7 (by omega), hold 15 (by omega), hold 16 (by omega), scheduleNext]
    · exact ih (by omega) (by omega) (by omega)

theorem blockWords_toList_length (b : Block) : (blockWords b).toList.length = 16 := Vector.length_toList

/-- The recurrence carried on past the schedule leaves the schedule as it is (R80). -/
theorem extendedSchedule_getD_of_lt (b : Block) {i : Nat} (hi : i < 64) :
    (extendedSchedule b).getD i 0 = (schedule b).getD i 0 := by
  rw [extendedSchedule, extendSchedule_add 48 16, ← schedule]
  exact extendSchedule_getD_of_lt _ _ (by rw [schedule, extendSchedule_length, blockWords_toList_length]; exact hi)

theorem extendedSchedule_recurrence (b : Block) {t : Nat} (ht : 16 ≤ t) (hn : t < 80) :
    (extendedSchedule b).getD t 0 =
      smallSigma1 ((extendedSchedule b).getD (t - 2) 0) + (extendedSchedule b).getD (t - 7) 0
        + smallSigma0 ((extendedSchedule b).getD (t - 15) 0) + (extendedSchedule b).getD (t - 16) 0 :=
  extendSchedule_recurrence 64 (blockWords_toList_length b).ge (by rwa [blockWords_toList_length])
    (by rwa [blockWords_toList_length])

/-! ### The window -/

/-- The 16 words of the schedule from index `k` on, carried on past its end (R80). -/
def scheduleWindow (b : Block) (k : Nat) : Vector Word 16 :=
  Vector.ofFn fun i : Fin 16 => (extendedSchedule b).getD (k + i.val) 0

theorem scheduleWindow_get (b : Block) (k : Nat) {i : Nat} (hi : i < 16) :
    (scheduleWindow b k)[i] = (extendedSchedule b).getD (k + i) 0 := by
  simp [scheduleWindow]

/-- LOAD puts the window at index 0 into `Wr` (R77). -/
theorem scheduleWindow_zero (b : Block) : scheduleWindow b 0 = blockWords b := by
  apply Vector.ext
  intro i hi
  rw [scheduleWindow_get b 0 hi, Nat.zero_add, extendedSchedule_getD_of_lt b (by omega), schedule_getD_of_lt b hi]
  simp [blockWords]

theorem shiftWindow_get_of_lt (wr : Vector Word 16) {i : Nat} (hi : i < 15) : (shiftWindow wr)[i] = wr[i + 1] := by
  simp [shiftWindow, hi]

theorem shiftWindow_get_last (wr : Vector Word 16) : (shiftWindow wr)[15] = shiftIn wr := by
  simp [shiftWindow]

/-- The word shifted in is the recurrence's next (R73, R78). -/
theorem shiftIn_scheduleWindow (b : Block) {k : Nat} (hk : k < 64) :
    shiftIn (scheduleWindow b k) = (extendedSchedule b).getD (k + 16) 0 := by
  have hrec := extendedSchedule_recurrence b (t := k + 16) (by omega) (by omega)
  rw [show k + 16 - 2 = k + 14 by omega, show k + 16 - 7 = k + 9 by omega, show k + 16 - 15 = k + 1 by omega,
    show k + 16 - 16 = k + 0 by omega] at hrec
  rw [hrec, shiftIn, scheduleWindow_get b k (i := 14) (by omega), scheduleWindow_get b k (i := 9) (by omega),
    scheduleWindow_get b k (i := 1) (by omega), scheduleWindow_get b k (i := 0) (by omega)]

/-- A ROUND edge moves the window on by one index (R78). -/
theorem shiftWindow_scheduleWindow (b : Block) {k : Nat} (hk : k < 64) :
    shiftWindow (scheduleWindow b k) = scheduleWindow b (k + 1) := by
  apply Vector.ext
  intro i hi
  rw [scheduleWindow_get b (k + 1) hi]
  rcases Nat.lt_or_ge i 15 with hlt | hge
  · rw [shiftWindow_get_of_lt _ hlt, scheduleWindow_get b k (by omega), Nat.add_assoc, Nat.add_comm 1 i]
  · obtain rfl : i = 15 := by omega
    rw [shiftWindow_get_last, shiftIn_scheduleWindow b hk, Nat.add_assoc]

/-! ### The edges of a compression -/

/-- The state of a compression of `b` begun in `s`, after `k` of its rounds (R78, R80, R81). -/
def afterRounds (b : Block) (k : Nat) (s : State) : State :=
  { s with
    work := roundsUpTo (schedule b) k s.h
    wr := scheduleWindow b k
    t := BitVec.ofNat 6 k
    estate := if k = 64 then .add else .round
    busy := true }

theorem afterRounds_zero (b : Block) (s : State) : afterRounds b 0 s = loadEdge b s := by
  unfold afterRounds
  rw [scheduleWindow_zero]
  rfl

theorem roundEdge_afterRounds (b : Block) {k : Nat} (s : State) (hk : k < 64) :
    roundEdge (afterRounds b k s) = afterRounds b (k + 1) s := by
  have ht : (BitVec.ofNat 6 k).toNat = k := by
    rw [BitVec.toNat_ofNat]
    omega
  have hword : (scheduleWindow b k)[0] = (schedule b).getD k 0 :=
    (scheduleWindow_get b k (by omega)).trans (extendedSchedule_getD_of_lt b hk)
  have hlast : BitVec.ofNat 6 k = 63 ↔ k + 1 = 64 := by
    rw [← BitVec.toNat_inj, ht]
    simp
  have hcount : (if k + 1 = 64 then 0 else BitVec.ofNat 6 k + 1) = BitVec.ofNat 6 (k + 1) := by
    split_ifs with h
    · rw [h]
      rfl
    · exact (BitVec.ofNat_add k 1).symm
  simp only [roundEdge, afterRounds, ht, hword, shiftWindow_scheduleWindow b hk, hlast, hcount, roundsUpTo]

/-- The ADD edge ends the compression the transaction level makes at once (R79, R81). -/
theorem addEdge_afterRounds (b : Block) (s : State) :
    addEdge (afterRounds b 64 s) = { runEngine b s with busy := s.seq != .nothing } := by
  simp only [addEdge, afterRounds, runEngine, compress, Config.rounds]

end Sys2Proof.Machine
end

section
/-! PROOFS. The reference schedule reaches the state the step gives (rules R45, R81, R117): a compression takes 65 edges
after its LOAD, FINALIZE's tail one more. -/

namespace Sys2Proof.Machine

/-! ### Edges without reset -/

/-- The first `n` of the coming inputs used up. -/
def dropInputs (n : Nat) (s : State) : State := { s with inputs := s.inputs.drop n }

theorem popInput_dropInputs (n : Nat) (s : State) : (dropInputs n s).popInput = dropInputs (n + 1) s := by
  simp only [dropInputs, State.popInput, List.tail_drop]

theorem noReset_dropInputs {s : State} (h : NoReset s) (n : Nat) : NoReset (dropInputs n s) :=
  fun x hx => h x (List.mem_of_mem_drop hx)

theorem nextInput_rst_of_noReset {s : State} (h : NoReset s) : s.nextInput.rst = false := by
  unfold State.nextInput
  cases hs : s.inputs with
  | nil => rfl
  | cons x xs => exact h x (by simp [hs])

theorem clockEdge_round {s : State} (hr : NoReset s) (hb : s.busy = true) (he : s.estate = .round) :
    clockEdge s = .next (roundEdge s.popInput) := by
  rw [clockEdge_busy (nextInput_rst_of_noReset hr) hb, busyEdge, popInput_estate, he]

theorem clockEdge_add {s : State} (hr : NoReset s) (hb : s.busy = true) (he : s.estate = .add) :
    clockEdge s = .next (addEdge s.popInput) := by
  rw [clockEdge_busy (nextInput_rst_of_noReset hr) hb, busyEdge, popInput_estate, he]

theorem clockEdge_lengthBlock {s : State} (hr : NoReset s) (hb : s.busy = true) (he : s.estate = .idle)
    (hq : s.seq = .lengthBlock) : clockEdge s = .next (lengthBlockEdge s.popInput) := by
  rw [clockEdge_busy (nextInput_rst_of_noReset hr) hb, busyEdge, popInput_estate, popInput_seq, he, hq]

theorem clockEdge_tail {s : State} (hr : NoReset s) (hb : s.busy = true) (he : s.estate = .idle)
    (hq : s.seq = .digest) : clockEdge s = .next (tailEdge s.popInput) := by
  rw [clockEdge_busy (nextInput_rst_of_noReset hr) hb, busyEdge, popInput_estate, popInput_seq, he, hq]

/-- One more edge. -/
theorem clockEdges_succ {s t u : State} (n : Nat) (h : clockEdges n s = .next t) (ht : clockEdge t = .next u) :
    clockEdges (n + 1) s = .next u :=
  (clockEdges_add n 1 h).trans (clockEdges_next 0 ht)

/-! ### A compression -/

theorem popInput_afterRounds (b : Block) (k : Nat) (s : State) :
    (afterRounds b k s).popInput = afterRounds b k s.popInput := rfl

theorem clockEdges_rounds (b : Block) {s : State} (hr : NoReset s) {k : Nat} (hk : k ≤ 64) :
    clockEdges k (loadEdge b s) = .next (afterRounds b k (dropInputs k s)) := by
  induction k with
  | zero => exact congrArg _ (afterRounds_zero b s).symm
  | succ k ih =>
    have hedge := clockEdge_round (s := afterRounds b k (dropInputs k s)) (noReset_dropInputs hr k) rfl
      (if_neg (by omega))
    rw [popInput_afterRounds, popInput_dropInputs, roundEdge_afterRounds b _ (by omega)] at hedge
    exact clockEdges_succ k (ih (by omega)) hedge

/-- The 64 ROUND edges and the ADD edge after a LOAD (R81). -/
theorem clockEdges_compression (b : Block) {s : State} (hr : NoReset s) :
    clockEdges 65 (loadEdge b s) = .next { runEngine b (dropInputs 65 s) with busy := s.seq != .nothing } := by
  have hedge := clockEdge_add (s := afterRounds b 64 (dropInputs 64 s)) (noReset_dropInputs hr 64) rfl rfl
  rw [popInput_afterRounds, popInput_dropInputs, addEdge_afterRounds] at hedge
  exact clockEdges_succ 64 (clockEdges_rounds b hr le_rfl) hedge

/-- The first of a FINALIZE's two blocks and the LOAD of the other (R117). -/
theorem clockEdges_firstBlock (b : Block) {s : State} (hr : NoReset s) (hq : s.seq = .lengthBlock) :
    clockEdges 66 (loadEdge b s) =
      .next (loadEdge (withLength (bitLength s) zeroBlock) { runEngine b (dropInputs 66 s) with seq := .digest }) := by
  have hcomp := clockEdges_compression b hr
  rw [hq] at hcomp
  have hload := clockEdge_lengthBlock (s := { runEngine b (dropInputs 65 s) with busy := true })
    (noReset_dropInputs hr 65) rfl rfl hq
  have hpop : lengthBlockEdge ({ runEngine b (dropInputs 65 s) with busy := true } : State).popInput =
      loadEdge (withLength (bitLength s) zeroBlock) { runEngine b (dropInputs 66 s) with seq := .digest } := by
    rw [← popInput_dropInputs 65]
    rfl
  exact clockEdges_succ 65 hcomp (hload.trans (congrArg _ hpop))

/-- The last block of a FINALIZE and its tail edge (R117). -/
theorem clockEdges_lastBlock (b : Block) {s : State} (hr : NoReset s) (hq : s.seq = .digest) :
    clockEdges 66 (loadEdge b s) = .next (tailEdge (runEngine b (dropInputs 66 s))) := by
  have hcomp := clockEdges_compression b hr
  rw [hq] at hcomp
  have htail := clockEdge_tail (s := { runEngine b (dropInputs 65 s) with busy := true })
    (noReset_dropInputs hr 65) rfl rfl hq
  have hpop : tailEdge ({ runEngine b (dropInputs 65 s) with busy := true } : State).popInput =
      tailEdge (runEngine b (dropInputs 66 s)) := by
    rw [← popInput_dropInputs 65]
    rfl
  exact clockEdges_succ 65 hcomp (htail.trans (congrArg _ hpop))

/-! ### The commands that compress -/

/-- The acceptance edge of the reference schedule never stops. -/
theorem startWord_next (w : CmdWord) (s : State) : ∃ v, startWord w s = .next v := by
  unfold startWord
  rcases decode w with i | e
  · by_cases hc : compressionCount i s = 0
    · simpa only [startCommand, if_pos hc] using exec_next i s
    · simp only [startCommand, if_neg hc]
      cases i with
      | nop => exact exec_next .nop s
      | init => exact exec_next .init s
      | update n d => exact ⟨_, rfl⟩
      | finalize => exact ⟨_, rfl⟩
  · exact ⟨_, rfl⟩

section
variable {s : State} (hr : NoReset s) (hb : s.busy = false) (hq : s.seq = .nothing)
include hr hb hq

/-- An UPDATE that completes a block ends in its transaction's state. -/
theorem clockEdges_updateLaunch {n : BitVec 3} (d : Word) (hn : 64 ≤ s.bufLen.toNat + n.toNat) :
    clockEdges 65 (updateLaunch n d s) = .next (dropInputs 65 (updateContext n d s)) := by
  rw [updateContext_across n d s hn]
  have h := clockEdges_compression (fillBlock s.bufLen.toNat ((beatBytes n d).take (64 - s.bufLen.toNat)) s.buf)
    (s := { s with
      buf := fillBlock 0 ((beatBytes n d).drop (64 - s.bufLen.toNat)) zeroBlock
      bufLen := BitVec.ofNat 6 ((beatBytes n d).length - (64 - s.bufLen.toNat))
      totalLen := s.totalLen + n.setWidth 64
      seq := .nothing }) hr
  refine h.trans (congrArg _ ?_)
  simp only [dropInputs, runEngine, beatBytes_length, hb, hq]
  rfl

/-- A FINALIZE of one block ends in its transaction's state. -/
theorem clockEdges_finalizeLaunch_one (hl : s.bufLen.toNat < 56) :
    clockEdges 66 (finalizeLaunch s) = .next (dropInputs 66 (finalizeContext s)) := by
  rw [finalizeLaunch, if_neg (Nat.not_le.2 hl)]
  have h := clockEdges_lastBlock (withLength (bitLength s) (padMark s.bufLen.toNat s.buf))
    (s := { s with seq := .digest }) hr rfl
  refine h.trans (congrArg _ ?_)
  rw [finalizeContext, padAndCompress_one _ s hl]
  simp only [dropInputs, tailEdge, zeroContext, writeDigest, runEngine, hb, hq]

/-- A FINALIZE of two blocks ends in its transaction's state. -/
theorem clockEdges_finalizeLaunch_two (hl : 56 ≤ s.bufLen.toNat) :
    clockEdges 132 (finalizeLaunch s) = .next (dropInputs 132 (finalizeContext s)) := by
  rw [finalizeLaunch, if_pos hl]
  have hfirst := clockEdges_firstBlock (padMark s.bufLen.toNat s.buf) (s := { s with seq := .lengthBlock }) hr rfl
  have hlast := clockEdges_lastBlock (withLength (bitLength s) zeroBlock)
    (s := { runEngine (padMark s.bufLen.toNat s.buf) (dropInputs 66 s) with seq := .digest })
    (noReset_dropInputs hr 66) rfl
  refine (clockEdges_add 66 66 hfirst).trans (hlast.trans (congrArg _ ?_))
  rw [finalizeContext, padAndCompress_two _ s hl]
  simp only [dropInputs, tailEdge, zeroContext, writeDigest, runEngine, hb, hq, List.drop_drop]

/-- Whatever word is accepted, the reference schedule comes from its acceptance edge to the state of its transaction. -/
theorem clockEdges_startWord {w : CmdWord} {t : State} (h : acceptWord w s = .next t) :
    ∃ n v, n ≤ 132 ∧ startWord w s = .next v ∧ clockEdges n v = .next (dropInputs n t) := by
  obtain ⟨v, hv⟩ := startWord_next w s
  obtain ha | ⟨n, d, hd, he, hn, rfl⟩ | ⟨hd, he, rfl⟩ := startWord_cases hv
  · obtain rfl : t = v := by simpa [h] using ha
    exact ⟨0, t, by omega, hv, rfl⟩
  · obtain rfl : updateContext n d s = t := by simpa [acceptWord, hd, exec_update, he] using h
    exact ⟨65, _, by omega, hv, clockEdges_updateLaunch hr hb hq d hn⟩
  · obtain rfl : finalizeContext s = t := by simpa [acceptWord, hd, exec_finalize, he] using h
    rcases Nat.lt_or_ge s.bufLen.toNat 56 with hl | hl
    · exact ⟨66, _, by omega, hv, clockEdges_finalizeLaunch_one hr hb hq hl⟩
    · exact ⟨132, _, le_rfl, hv, clockEdges_finalizeLaunch_two hr hb hq hl⟩

end

/-- Settles O48: the acceptance edge, then at most 132 more. -/
theorem referenceScheduleRefinesStep : Obligations.ReferenceScheduleRefinesStep := by
  unfold Obligations.ReferenceScheduleRefinesStep
  intro s t hlegal hr hacc hstep
  obtain ⟨-, hb, -⟩ := (accepts_iff s).1 hacc
  rw [step_accepts hacc] at hstep
  obtain ⟨htb, -, hti⟩ := acceptWord_keeps hstep
  have hpop : NoReset s.popInput := fun x hx => hr x (List.mem_of_mem_tail hx)
  obtain ⟨n, v, hn, hv, hrun⟩ := clockEdges_startWord hpop hb (hlegal.quiet hb).1 hstep
  refine ⟨n + 1, by omega, by omega, htb.trans hb, ?_⟩
  rw [clockEdges_next n ((clockEdge_accepts hacc).trans hv), hrun, dropInputs, hti, popInput_inputs, List.drop_tail]

end Sys2Proof.Machine
end

section
/-! PROOFS. The end of a command sequence in the reference schedule (rules R48, R113, R121): a host that holds each word
until it is accepted offers nothing an edge of a busy command looks at. -/

namespace Sys2Proof.Machine

/-! ### The inputs an edge uses up -/

theorem busyEdge_inputs {s t : State} (h : busyEdge s = .next t) : t.inputs = s.inputs := by
  obtain ⟨-, rfl⟩ | ⟨-, rfl⟩ | ⟨-, -, rfl⟩ | ⟨-, -, rfl⟩ := busyEdge_cases h <;> rfl

theorem startWord_inputs {w : CmdWord} {s t : State} (h : startWord w s = .next t) : t.inputs = s.inputs := by
  obtain ha | ⟨n, d, -, -, -, rfl⟩ | ⟨-, -, rfl⟩ := startWord_cases h
  · exact (acceptWord_keeps ha).2.2
  · rfl
  · obtain ⟨b, q, hs, -⟩ := finalizeLaunch_eq s
    rw [hs]
    rfl

/-- Every edge of the reference schedule uses up one input. -/
theorem clockEdge_inputs {s t : State} (h : clockEdge s = .next t) : t.inputs = s.inputs.tail := by
  obtain ⟨-, ho⟩ | ⟨-, -, ho⟩ | ⟨-, -, -, ho⟩ | ⟨-, -, -, ho⟩ := edgeWith_cases h
  · cases ho
    rfl
  · exact busyEdge_inputs ho.symm
  · exact startWord_inputs ho.symm
  · cases ho
    rfl

/-- With nothing coming, an idle core stays as it is. -/
theorem clockEdge_idle {s : State} (hb : s.busy = false) (hi : s.inputs = []) : clockEdge s = .next s := by
  have hpop : s.popInput = s := withInputs_self (by rw [hi, List.tail_nil])
  have hnext : s.nextInput = Input.quiet := by rw [State.nextInput, hi, List.headD_nil]
  simp [clockEdge, edgeWith, hnext, hpop, hb, Input.quiet]

theorem clockEdges_idle (n : Nat) {s : State} (hb : s.busy = false) (hi : s.inputs = []) :
    clockEdges n s = .next s := by
  induction n with
  | zero => rfl
  | succ n ih => rw [clockEdges_next n (clockEdge_idle hb hi), ih]

/-! ### The host that holds each word -/

theorem heldInput_tail (ws : List CmdWord) : (heldInput ws).tail = [] := by
  cases ws <;> rfl

theorem noReset_heldInput (s : State) (ws : List CmdWord) : NoReset { s with inputs := heldInput ws } := by
  cases ws <;> simp [NoReset, heldInput, Input.present]

/-- A busy core with nothing coming does not look at the word held. -/
theorem clockEdge_held {s : State} (ws : List CmdWord) (hb : s.busy = true) (hi : s.inputs = []) :
    clockEdge { s with inputs := heldInput ws } = clockEdge s := by
  have hpop : ({ s with inputs := heldInput ws } : State).popInput = s.popInput := by
    simp only [State.popInput, heldInput_tail, hi, List.tail_nil]
  have hrst : s.nextInput.rst = false := by rw [State.nextInput, hi, List.headD_nil, Input.quiet]
  rw [clockEdge_busy (nextInput_rst_of_noReset (noReset_heldInput s ws)) hb, clockEdge_busy hrst hb, hpop]

/-! ### The end of a sequence -/

theorem sequenceEnd_done (n : Nat) {s : State} (hb : s.busy = false) : sequenceEnd n [] s = some s := by
  cases n <;> simp [sequenceEnd, hb]

/-- The edge that accepts the next word. -/
theorem sequenceEnd_word (n : Nat) {w : CmdWord} (ws : List CmdWord) {s t : State} (hb : s.busy = false)
    (h : clockEdge { s with inputs := heldInput (w :: ws) } = .next t) :
    sequenceEnd (n + 1) (w :: ws) s = sequenceEnd n ws t := by
  rw [sequenceEnd, if_neg (by simp), h]
  simp [hb]

/-- An edge of a busy command. -/
theorem sequenceEnd_busy (n : Nat) (ws : List CmdWord) {s t : State} (hb : s.busy = true)
    (h : clockEdge { s with inputs := heldInput ws } = .next t) :
    sequenceEnd (n + 1) ws s = sequenceEnd n ws t := by
  rw [sequenceEnd, if_neg (by simp [hb]), h]
  simp [hb]

/-- With more edges to come the end is the same. -/
theorem sequenceEnd_succ {n : Nat} {ws : List CmdWord} {s t : State} (h : sequenceEnd n ws s = some t) :
    sequenceEnd (n + 1) ws s = some t := by
  induction n generalizing ws s with
  | zero =>
    rw [sequenceEnd] at h
    split_ifs at h with hend
    rw [sequenceEnd, if_pos hend, h]
  | succ n ih =>
    by_cases hend : ws = [] ∧ s.busy = false
    · rw [sequenceEnd, if_pos hend] at h ⊢
      exact h
    · rw [sequenceEnd, if_neg hend] at h ⊢
      rcases he : clockEdge { s with inputs := heldInput ws } with u | r | r <;> rw [he] at h
      · exact ih h
      · cases h
      · cases h

theorem sequenceEnd_mono {n n' : Nat} (hn : n ≤ n') {ws : List CmdWord} {s t : State}
    (h : sequenceEnd n ws s = some t) : sequenceEnd n' ws s = some t := by
  induction hn with
  | refl => exact h
  | step _ ih => exact sequenceEnd_succ ih

/-- From a state whose command ends in `v` after `k` edges, the sequence ends as from `v`: what is held meanwhile does
not matter, and a core that is idle before the `k` edges are over is in `v` already. -/
theorem sequenceEnd_of_clockEdges {k m : Nat} {ws : List CmdWord} {u v t : State} (hi : u.inputs = [])
    (hrun : clockEdges k u = .next v) (hv : v.busy = false) (h : sequenceEnd m ws v = some t) :
    sequenceEnd (k + m) ws u = some t := by
  induction k generalizing u with
  | zero =>
    cases hrun
    rwa [Nat.zero_add]
  | succ k ih =>
    rcases hb : u.busy with _ | _
    · obtain rfl : u = v := by simpa [clockEdges_idle _ hb hi] using hrun
      exact sequenceEnd_mono (by omega) h
    · rw [clockEdges] at hrun
      rcases he : clockEdge u with u' | r | r <;> rw [he] at hrun
      · have hi' : u'.inputs = [] := by rw [clockEdge_inputs he, hi, List.tail_nil]
        rw [Nat.add_right_comm, sequenceEnd_busy _ ws hb ((clockEdge_held ws hb hi).trans he)]
        exact ih hi' hrun
      · cases hrun
      · cases hrun

/-- A word accepted by an idle core: the sequence goes on from the state of its transaction. -/
theorem sequenceEnd_accept {m : Nat} {w : CmdWord} {ws : List CmdWord} {s u t : State} (hb : s.busy = false)
    (hq : s.seq = .nothing) (hi : s.inputs = []) (hw : acceptWord w s = .next u)
    (h : sequenceEnd m ws u = some t) : sequenceEnd (m + 133) (w :: ws) s = some t := by
  have hr : NoReset s := by simp [NoReset, hi]
  obtain ⟨hub, -, hui⟩ := acceptWord_keeps hw
  obtain ⟨n, v, hn, hv, hrun⟩ := clockEdges_startWord hr hb hq hw
  have hdrop : dropInputs n u = u := withInputs_self (by rw [hui, hi, List.drop_nil])
  have hedge : clockEdge { s with inputs := heldInput (w :: ws) } = .next v := by
    have hpop : ({ s with inputs := heldInput (w :: ws) } : State).popInput = s := withInputs_self hi
    have hacc : ({ s with inputs := heldInput (w :: ws) } : State).accepts = true := (accepts_iff _).2 ⟨rfl, hb, rfl⟩
    rw [clockEdge_accepts hacc, hpop]
    exact hv
  have hvi : v.inputs = [] := (startWord_inputs hv).trans hi
  rw [hdrop] at hrun
  have hrest := sequenceEnd_of_clockEdges hvi hrun (hub.trans hb) h
  exact sequenceEnd_mono (by omega) ((sequenceEnd_word (n + m) ws hb hedge).trans hrest)

/-- Settles O49, by induction on the words: each is accepted by an idle core and takes at most 133 edges. -/
theorem sequenceEndsAsAccepted : Obligations.SequenceEndsAsAccepted := by
  unfold Obligations.SequenceEndsAsAccepted
  intro s ws hlegal hb hi
  induction ws generalizing s with
  | nil => exact ⟨s, rfl, sequenceEnd_done _ hb⟩
  | cons w ws ih =>
    obtain ⟨u, hu⟩ := acceptWord_next w s
    obtain ⟨hub, -, hui⟩ := acceptWord_keeps hu
    obtain ⟨t, ht, hend⟩ := ih u (hlegal.after_acceptWord hb hu) (hub.trans hb) (hui.trans hi)
    refine ⟨t, (acceptAll_next ws hu).trans ht, ?_⟩
    rw [List.length_cons, Nat.mul_add_one]
    exact sequenceEnd_accept hb (hlegal.quiet hb).1 hi hu hend

end Sys2Proof.Machine
end

section
/-! PROOFS. Every one of the 2^40 words: its fields read off its numeric value, what it decodes to, both ways, and what
its acceptance does (rules R55, R56, R59, R60, R61, R83). -/

namespace Sys2Proof

/-- Settles O3: the fields of the command's word are read back. -/
theorem decodeEncodeRoundTrip : Obligations.DecodeEncodeRoundTrip := by
  unfold Obligations.DecodeEncodeRoundTrip
  intro i h
  exact decode_encode h

/-- The decoder lets no LEN above 4 through (R61). -/
theorem wellFormed_of_decode {w : CmdWord} {i : Instr} (h : decode w = .command i) : i.wellFormed = true := by
  unfold decode at h
  split_ifs at h with h4 h2 hf hr h0 h1 <;> cases h
  · exact decide_eq_true (Nat.not_lt.1 fun hlt => hf (.inr hlt))
  · rfl
  · rfl
  · rfl

/-- Settles O4: the check of LEN, and the word rebuilt from its fields. -/
theorem decodedWordIsItsEncoding : Obligations.DecodedWordIsItsEncoding := by
  unfold Obligations.DecodedWordIsItsEncoding
  intro w i h
  exact ⟨wellFormed_of_decode h, (eq_encode_of_decode h).symm⟩

/-! ### The fields of a word's numeric value (R56) -/

section
variable (w : CmdWord)

theorem opField_toNat : (opField w).toNat = w.toNat / 2 ^ 36 := by
  have hw := w.isLt
  rw [opField, BitVec.extractLsb'_toNat, Nat.shiftRight_eq_div_pow]
  omega

theorem rsvField_toNat : (rsvField w).toNat = w.toNat / 2 ^ 35 % 2 := by
  rw [rsvField, BitVec.extractLsb'_toNat, Nat.shiftRight_eq_div_pow, Nat.pow_one]

theorem lenField_toNat : (lenField w).toNat = w.toNat / 2 ^ 32 % 8 := by
  rw [lenField, BitVec.extractLsb'_toNat, Nat.shiftRight_eq_div_pow]

theorem restField_toNat : (restField w).toNat = w.toNat % 2 ^ 36 := by
  rw [restField, BitVec.extractLsb'_toNat, Nat.shiftRight_zero]

theorem lenField_eq_ofNat : lenField w = BitVec.ofNat 3 (w.toNat / 2 ^ 32) := by
  rw [lenField, BitVec.extractLsb', Nat.shiftRight_eq_div_pow]

theorem dataField_eq_ofNat : dataField w = BitVec.ofNat 32 w.toNat := by
  rw [dataField, BitVec.extractLsb', Nat.shiftRight_zero]

/-- The decoder on a word's numeric value. -/
theorem decode_eq_numeric :
    decode w =
      if 4 ≤ w.toNat / 2 ^ 36 then .error .reservedOp
      else if w.toNat / 2 ^ 36 = 2 then
        if w.toNat / 2 ^ 35 % 2 ≠ 0 ∨ 4 < w.toNat / 2 ^ 32 % 8 then .error .badFormat
        else .command (.update (BitVec.ofNat 3 (w.toNat / 2 ^ 32)) (BitVec.ofNat 32 w.toNat))
      else if w.toNat % 2 ^ 36 ≠ 0 then .error .badFormat
      else if w.toNat / 2 ^ 36 = 0 then .command .nop
      else if w.toNat / 2 ^ 36 = 1 then .command .init
      else .command .finalize := by
  have hop (k : BitVec 4) : opField w = k ↔ w.toNat / 2 ^ 36 = k.toNat := by
    rw [← BitVec.toNat_inj, opField_toNat]
  have hrsv : rsvField w ≠ 0 ↔ w.toNat / 2 ^ 35 % 2 ≠ 0 := by
    rw [ne_eq, ← BitVec.toNat_inj, rsvField_toNat]
    rfl
  have hrest : restField w ≠ 0 ↔ w.toNat % 2 ^ 36 ≠ 0 := by
    rw [ne_eq, ← BitVec.toNat_inj, restField_toNat]
    rfl
  rw [decode]
  simp only [hop, hrsv, hrest, opField_toNat, lenField_toNat, ← lenField_eq_ofNat, ← dataField_eq_ofNat]
  rfl

end

end Sys2Proof

namespace Sys2Proof.Machine

/-! ### The acceptance of a word -/

/-- Accepting a word that is no command takes the error entry (R59, R97). -/
theorem acceptWord_of_decode_error {w : CmdWord} {e : DecodeError} (h : decode w = .error e) (s : State) :
    acceptWord w s = .next (cmdError (decodeErrCode e) s) := by
  rw [acceptWord, h]

/-- The codes of the two decode errors (R96). -/
theorem errBits_decodeErrCode (e : DecodeError) :
    errBits (decodeErrCode e) = match e with | .reservedOp => 2 | .badFormat => 3 := by
  cases e <;> rfl

/-- Settles O2: each clause is one branch of the decoder on the word's numeric value. -/
theorem everyWordDecodes : Obligations.EveryWordDecodes := by
  unfold Obligations.EveryWordDecodes
  intro w
  rw [decode_eq_numeric]
  refine ⟨fun h4 => ?_, fun h2 hr hl => ?_, fun h2 hf => ?_, fun h4 h2 hr => ?_, fun h0 hr => ?_, fun h1 hr => ?_,
    fun h3 hr => ?_, fun e s he => ?_⟩
  · rw [if_pos h4]
  · rw [if_neg (by omega), if_pos h2, if_neg (by omega)]
  · rw [if_neg (by omega), if_pos h2, if_pos (by omega)]
  · rw [if_neg (by omega), if_neg h2, if_pos hr]
  · rw [if_neg (by omega), if_neg (by omega), if_neg (not_not.2 hr), if_pos h0]
  · rw [if_neg (by omega), if_neg (by omega), if_neg (not_not.2 hr), if_neg (by omega), if_pos h1]
  · rw [if_neg (by omega), if_neg (by omega), if_neg (not_not.2 hr), if_neg (by omega), if_neg (by omega)]
  · rw [← decode_eq_numeric] at he
    exact ⟨errBits_decodeErrCode e, acceptWord_of_decode_error he s⟩

/-- Settles O1: the decoder evaluated on seven words. -/
theorem specWordsDecode : Obligations.SpecWordsDecode := by
  unfold Obligations.SpecWordsDecode
  decide

/-- Settles O12: the edge accepts the word, and the word is that command. -/
theorem stepRunsDecodedCommand : Obligations.StepRunsDecodedCommand := by
  unfold Obligations.StepRunsDecodedCommand
  intro s i hacc hd
  rw [step_accepts hacc, acceptWord, hd]

/-! ### Edges at which nothing is accepted (R55, R113) -/

section
variable (accept : CmdWord → State → Host.Outcome State Fault Refusal) {s : State} (c : CmdWord) (rest : List Input)

/-- An idle edge uses up its input and changes nothing else. -/
theorem edgeWith_quiet (hb : s.busy = false) :
    edgeWith accept { s with inputs := ⟨false, false, c⟩ :: rest } = .next { s with inputs := rest } := by
  rw [edgeWith, if_neg (by simp [State.nextInput]), if_neg (by simp [hb]), if_neg (by simp [State.nextInput])]
  rfl

/-- An edge of a busy command goes on whatever stands on `cmd_valid` and `cmd`. -/
theorem edgeWith_busy (v : Bool) (hb : s.busy = true) :
    edgeWith accept { s with inputs := ⟨false, v, c⟩ :: rest } = busyEdge { s with inputs := rest } := by
  rw [edgeWith, if_neg (by simp [State.nextInput]), if_pos hb]
  rfl

end

/-- Settles O13: both levels are one edge that differs in what the acceptance of a word does. -/
theorem unacceptedWordHasNoEffect : Obligations.UnacceptedWordHasNoEffect := by
  unfold Obligations.UnacceptedWordHasNoEffect
  intro s v v' c c' rest
  have hbusy (accept) (hb : s.busy = true) :
      edgeWith accept { s with inputs := ⟨false, v, c⟩ :: rest } =
        edgeWith accept { s with inputs := ⟨false, v', c'⟩ :: rest } :=
    (edgeWith_busy accept c rest v hb).trans (edgeWith_busy accept c' rest v' hb).symm
  exact ⟨fun hb => ⟨edgeWith_quiet acceptWord c rest hb, edgeWith_quiet startWord c rest hb⟩,
    fun hb => ⟨hbusy acceptWord hb, hbusy startWord hb⟩⟩

/-! ### No edge from a legal state stops -/

/-- A busy command of a legal state has its next edge: with no compression in flight something is pending (R21). -/
theorem busyEdge_next_of_legal {s : State} (h : Legal s) (hb : s.busy = true) : ∃ t, busyEdge s = .next t := by
  unfold busyEdge
  rcases he : s.estate with _ | _ | _
  · rcases hq : s.seq with _ | _ | _
    · exact absurd hq (h.pending hb he)
    · exact ⟨_, rfl⟩
    · exact ⟨_, rfl⟩
  · exact ⟨_, rfl⟩
  · exact ⟨_, rfl⟩

/-- An edge from a legal state goes on when the acceptance of every word does. -/
theorem edgeWith_next_of_legal {accept : CmdWord → State → Host.Outcome State Fault Refusal}
    (haccept : ∀ w s, ∃ t, accept w s = .next t) {s : State} (h : Legal s) : ∃ t, edgeWith accept s = .next t := by
  obtain ⟨-, ho⟩ | ⟨-, hb, ho⟩ | ⟨-, -, -, ho⟩ | ⟨-, -, -, ho⟩ := edgeWith_cases (accept := accept) (s := s) rfl
  · exact ⟨_, ho⟩
  · rw [ho]
    exact busyEdge_next_of_legal h.after_popInput hb
  · rw [ho]
    exact haccept s.nextInput.cmd s.popInput
  · exact ⟨_, ho⟩

/-- Settles O10: every word's acceptance completes at both levels, and a legal busy state is not stuck. -/
theorem legalStateNeverStops : Obligations.LegalStateNeverStops := by
  unfold Obligations.LegalStateNeverStops
  intro s h
  exact ⟨edgeWith_next_of_legal acceptWord_next h, edgeWith_next_of_legal startWord_next h⟩

/-! ### The lanes of DATA, and the ports -/

/-- A beat's bytes stand in the lanes below LEN (R58). -/
theorem beatBytes_congr {n : BitVec 3} {d d' : Word} (h : ∀ j, j < n.toNat → beatByte d j = beatByte d' j) :
    beatBytes n d = beatBytes n d' :=
  List.map_congr_left fun j hj => h j (List.mem_range.1 hj)

/-- Settles O22: an UPDATE reads DATA through its beat's bytes alone. -/
theorem updateIgnoresUnusedLanes : Obligations.UpdateIgnoresUnusedLanes := by
  unfold Obligations.UpdateIgnoresUnusedLanes
  intro s n d d' h
  rw [exec_update, exec_update, updateContext, updateContext, beatBytes_congr h]

/-- STATUS.BUSY is defined while BUSY = 1 too (R114). -/
theorem statusPort_busy (k : Nat) (s : State) : (s.statusPort k).getLsbD 2 = s.busy := by
  unfold State.statusPort
  split_ifs with hb
  · simp [hb]
  · have hbit := congrArg (BitVec.getLsbD · 0) (statusRegister_busy s)
    simpa using hbit

/-- Settles O37: BUSY is bit 2 in both cases, and the ports are the registers by their definitions. -/
theorem outputsOutsideBusy : Obligations.OutputsOutsideBusy := by
  unfold Obligations.OutputsOutsideBusy
  intro k s
  refine ⟨statusPort_busy k s, by simp [State.cmdReady], fun hb => ?_⟩
  simp [State.statusPort, State.digestPort, hb]

end Sys2Proof.Machine
end

section
/-! PROOFS. The digest of a message: the padded message byte by byte, and the blocks a FINALIZE compresses, which are
the padded message's last ones (rules R89 to R94). -/

namespace Sys2Proof.Machine

/-! ### The padded message (R94) -/

theorem padMessage_length (m : List Byte) :
    (padMessage m).length = 64 * (m.length / 64 + if m.length % 64 ≤ 55 then 1 else 2) := by
  simp only [padMessage, padZeros, be64, List.length_append, List.length_singleton, List.length_replicate,
    List.length_map, List.length_range]
  split_ifs <;> omega

/-- The padded message up to its length field: the message, 0x80, zeros. -/
theorem padMessage_getD_of_lt (m : List Byte) {i : Nat} (hi : i < m.length + 1 + padZeros m.length) :
    (padMessage m).getD i 0 = if i < m.length then m.getD i 0 else if i = m.length then 0x80 else 0 := by
  rw [padMessage, List.getD_append _ _ _ _ (by simp; omega)]
  rcases lt_trichotomy i m.length with hlt | rfl | hgt
  · rw [if_pos hlt, List.append_assoc, List.getD_append _ _ _ _ hlt]
  · rw [if_neg (by omega), if_pos rfl, List.append_assoc, List.getD_append_right _ _ _ _ le_rfl, Nat.sub_self]
    rfl
  · rw [if_neg (by omega), if_neg (by omega), List.getD_append_right _ _ _ _ (by simp; omega)]
    simp

/-- The padded message's length field. -/
theorem padMessage_getD_length (m : List Byte) {k : Nat} (hk : k < 8) :
    (padMessage m).getD (m.length + 1 + padZeros m.length + k) 0 = be64Byte (BitVec.ofNat 64 (8 * m.length)) k := by
  have hlen : (m ++ [0x80] ++ List.replicate (padZeros m.length) (0 : Byte)).length =
      m.length + 1 + padZeros m.length := by
    simp only [List.length_append, List.length_singleton, List.length_replicate]
  rw [padMessage, List.getD_append_right _ _ _ _ (by omega), hlen, Nat.add_sub_cancel_left]
  simp [be64, hk]

/-- Its full blocks before the padding are the message's own. -/
theorem takeBlocks_padMessage (m : List Byte) :
    takeBlocks (m.length / 64) (padMessage m) = takeBlocks (m.length / 64) m := by
  rw [padMessage, List.append_assoc, List.append_assoc]
  exact takeBlocks_append _ _ _ (by omega)

theorem toBlock_drop_get (m : List Byte) (k : Nat) {i : Nat} (hi : i < 64) :
    (toBlock (m.drop k))[i] = m.getD (k + i) 0 := by
  simp [toBlock_get _ i hi, List.getD_eq_getElem?_getD]

/-- The bytes of the message that stand in no full block, then 0x80 and zeros, up to the length field. -/
theorem padMessage_getD_rest (m : List Byte) {i : Nat}
    (hi : 64 * (m.length / 64) + i < m.length + 1 + padZeros m.length) :
    (padMessage m).getD (64 * (m.length / 64) + i) 0 =
      if i < m.length % 64 then m.getD (64 * (m.length / 64) + i) 0 else if i = m.length % 64 then 0x80 else 0 := by
  have hlt : 64 * (m.length / 64) + i < m.length ↔ i < m.length % 64 := by omega
  have heq : 64 * (m.length / 64) + i = m.length ↔ i = m.length % 64 := by omega
  rw [padMessage_getD_of_lt m hi]
  simp only [hlt, heq]

/-- A block that holds the padded message's bytes from index `k` on, given the length field at its end. -/
theorem withLength_eq_toBlock_padMessage {m : List Byte} {k : Nat} {b : Block}
    (hk : m.length + 1 + padZeros m.length = k + 56)
    (hb : ∀ (i : Nat) (hi : i < 56), b[i] = (padMessage m).getD (k + i) 0) :
    withLength (BitVec.ofNat 64 (8 * m.length)) b = toBlock ((padMessage m).drop k) := by
  apply Vector.ext
  intro i hi
  rw [toBlock_drop_get _ _ hi, withLength_get _ _ _ hi]
  split_ifs with hlt
  · exact hb i hlt
  · obtain ⟨j, rfl⟩ := Nat.exists_eq_add_of_le (Nat.not_lt.1 hlt)
    rw [← Nat.add_assoc, ← hk, padMessage_getD_length m (by omega), Nat.add_sub_cancel_left]

/-! ### The blocks of a FINALIZE (R91) -/

section
variable {m : List Byte} {s : State}

/-- The marked buffer holds the padded message's bytes up to the length field. -/
theorem Absorbed.padMark_get (h : Absorbed m s) {i : Nat} (hi : i < 64)
    (hz : 64 * (m.length / 64) + i < m.length + 1 + padZeros m.length) :
    (padMark s.bufLen.toNat s.buf)[i] = (padMessage m).getD (64 * (m.length / 64) + i) 0 := by
  have hbuf : s.buf[i] = if i < m.length % 64 then m.getD (64 * (m.length / 64) + i) 0 else 0 := h.buf_get ⟨i, hi⟩
  rw [Machine.padMark_get _ _ _ hi, padMessage_getD_rest m hz, hbuf, h.bufLen_eq]
  split_ifs <;> rfl

/-- FINALIZE leaves in H the compression of the padded message's blocks, whether the length fits the block or needs one
of its own (R91, R94, C1). -/
theorem Absorbed.padAndCompress_h (h : Absorbed m s) :
    (padAndCompress (BitVec.ofNat 64 (8 * m.length)) s).h = sha256 m := by
  have hlen := padMessage_length m
  have hz : padZeros m.length = (119 - m.length % 64) % 64 := rfl
  have hbufLen := h.bufLen_eq
  rcases Nat.lt_or_ge s.bufLen.toNat 56 with hl | hl
  · have hblocks : (padMessage m).length / 64 = m.length / 64 + 1 := by
      rw [hlen, if_pos (by omega), Nat.mul_div_cancel_left _ (by decide)]
    have hlast := withLength_eq_toBlock_padMessage (k := 64 * (m.length / 64)) (by omega)
      fun i hi => h.padMark_get (i := i) (by omega) (by omega)
    rw [padAndCompress_one _ s hl, runEngine_h, h.h_eq, hlast, sha256, messageBlocks, hblocks, takeBlocks_succ,
      takeBlocks_padMessage, List.foldl_append, List.foldl_cons, List.foldl_nil]
  · have hblocks : (padMessage m).length / 64 = m.length / 64 + 1 + 1 := by
      rw [hlen, if_neg (by omega), Nat.mul_div_cancel_left _ (by decide)]
    have hfirst : padMark s.bufLen.toNat s.buf = toBlock ((padMessage m).drop (64 * (m.length / 64))) := by
      apply Vector.ext
      intro i hi
      rw [toBlock_drop_get _ _ hi, h.padMark_get hi (by omega)]
    have hlast := withLength_eq_toBlock_padMessage (m := m) (k := 64 * (m.length / 64 + 1)) (b := zeroBlock) (by omega)
      fun i hi => by
        rw [zeroBlock_get i (by omega), padMessage_getD_of_lt m (by omega), if_neg (by omega), if_neg (by omega)]
    rw [padAndCompress_two _ s hl, runEngine_h, runEngine_h, h.h_eq, hfirst, hlast, sha256, messageBlocks, hblocks,
      takeBlocks_succ, takeBlocks_succ, takeBlocks_padMessage, List.foldl_append, List.foldl_append]
    simp only [List.foldl_cons, List.foldl_nil]

/-- The bit length of the message held (R90). -/
theorem HoldsMessage.bitLength_eq (h : HoldsMessage m s) : bitLength s = BitVec.ofNat 64 (8 * m.length) := by
  apply BitVec.eq_of_toNat_eq
  rw [bitLength, BitVec.toNat_mul, h.totalLen_eq, BitVec.toNat_ofNat, Nat.mul_comm]
  rfl

end

/-- INIT, the beats and FINALIZE, from any state, end in the FINALIZE of a context that holds the message, and the
digest is the message's (R94). -/
theorem acceptAll_hashCommands_digest (s : State) {beats : List (BitVec 3 × Word)} (hlen : ∀ b ∈ beats, b.1.toNat ≤ 4)
    (hmax : (beatsMessage beats).length ≤ 2 ^ 61 - 1) :
    ∃ u : State, HoldsMessage (beatsMessage beats) u ∧
      acceptAll ((hashCommands beats).map encode) s = .next (finalizeContext u) ∧
      (finalizeContext u).digest = sha256 (beatsMessage beats) := by
  obtain ⟨u, hu, hm⟩ := acceptAll_messageCommands s beats hlen hmax
  have hfin : acceptWord (encode .finalize) u = .next (finalizeContext u) := by
    rw [acceptWord_encode rfl, exec_finalize, finalizeError_eq_none_iff.2 hm.phase_eq]
  refine ⟨u, hm, ?_, ?_⟩
  · rw [hashCommands, List.map_append]
    exact (acceptAll_append _ hu).trans (acceptAll_next [] hfin)
  · rw [finalizeContext_digest, hm.bitLength_eq]
    exact hm.absorbed.padAndCompress_h

end Sys2Proof.Machine
end

section
/-! PROOFS. Bytes assembled into beats, and the words of HASH.STR (rule R64, log entry 14). -/

namespace Sys2Proof.Machine

/-! ### Groups of bytes -/

/-- Bytes cut into groups of four from the start, a last group of one to three. -/
def byteGroups : List Byte → List (List Byte)
  | b0 :: b1 :: b2 :: b3 :: rest => [b0, b1, b2, b3] :: byteGroups rest
  | [] => []
  | b0 :: rest => [b0 :: rest]

/-- What is left after the groups of four is shorter than one. -/
theorem length_le_two_of_not_cons {rest : List Byte} (h : ∀ b1 b2 b3 more, rest = b1 :: b2 :: b3 :: more → False) :
    rest.length ≤ 2 := by
  rcases rest with _ | ⟨b1, _ | ⟨b2, _ | ⟨b3, more⟩⟩⟩
  · exact Nat.zero_le 2
  · exact Nat.le_succ 1
  · exact le_rfl
  · exact (h b1 b2 b3 more rfl).elim

theorem byteGroups_flatten (bs : List Byte) : (byteGroups bs).flatten = bs := by
  induction bs using byteGroups.induct with
  | case1 b0 b1 b2 b3 rest ih => rw [byteGroups, List.flatten_cons, ih]; rfl
  | case2 => rfl
  | case3 b0 rest hrest => rw [byteGroups.eq_3 _ _ hrest, List.flatten_singleton]

theorem byteGroups_length (bs : List Byte) : ∀ g ∈ byteGroups bs, 1 ≤ g.length ∧ g.length ≤ 4 := by
  induction bs using byteGroups.induct with
  | case1 b0 b1 b2 b3 rest ih =>
    rw [byteGroups, List.forall_mem_cons]
    exact ⟨⟨by simp, by simp⟩, ih⟩
  | case2 => simp [byteGroups]
  | case3 b0 rest hrest =>
    have hlen := length_le_two_of_not_cons hrest
    rw [byteGroups.eq_3 _ _ hrest, List.forall_mem_singleton, List.length_cons]
    omega

/-- Every group but the last is one of four. -/
theorem byteGroups_dropLast (bs : List Byte) : ∀ g ∈ (byteGroups bs).dropLast, g.length = 4 := by
  induction bs using byteGroups.induct with
  | case1 b0 b1 b2 b3 rest ih =>
    rw [byteGroups]
    rcases hgs : byteGroups rest with _ | ⟨g, gs⟩
    · simp
    · rw [hgs] at ih
      rw [List.dropLast_cons_cons, List.forall_mem_cons]
      exact ⟨rfl, ih⟩
  | case2 => simp [byteGroups]
  | case3 b0 rest hrest => simp [byteGroups.eq_3 _ _ hrest]

/-! ### The beat of a group -/

/-- LEN and DATA of a group of one to four bytes, the lanes that hold no byte 0x00. -/
def groupBeat (g : List Byte) : BitVec 3 × Word :=
  (BitVec.ofNat 3 g.length, be32 (g.getD 0 0) (g.getD 1 0) (g.getD 2 0) (g.getD 3 0))

/-- The beats of a list of bytes. -/
def assembledBeats (bs : List Byte) : List (BitVec 3 × Word) := (byteGroups bs).map groupBeat

/-- The assembler's words are the words of these beats. -/
theorem byteBeats_eq (bs : List Byte) : byteBeats bs = (beatCommands (assembledBeats bs)).map encode := by
  induction bs using byteGroups.induct with
  | case1 b0 b1 b2 b3 rest ih => rw [byteBeats, ih]; rfl
  | case2 => rfl
  | case3 b0 rest hrest => rw [byteBeats.eq_3 _ _ hrest, assembledBeats, byteGroups.eq_3 _ _ hrest]; rfl

theorem groupBeat_len {g : List Byte} (hg : g.length ≤ 4) : (groupBeat g).1.toNat = g.length := by
  rw [groupBeat, BitVec.toNat_ofNat, Nat.mod_eq_of_lt (by omega)]

/-- Lane `j` of a packed word is its byte `j` (R11, R58). -/
theorem beatByte_be32 (b0 b1 b2 b3 : Byte) {j : Nat} (hj : j < 4) :
    beatByte (be32 b0 b1 b2 b3) j = [b0, b1, b2, b3].getD j 0 := by
  unfold beatByte be32
  interval_cases j
  · exact extractLsb'_append_skip (by decide) <| extractLsb'_append_skip (by decide) <|
      extractLsb'_append_skip (by decide) BitVec.extractLsb'_eq_self
  · exact extractLsb'_append_skip (by decide) <| extractLsb'_append_skip (by decide)
      BitVec.extractLsb'_append_eq_right
  · exact extractLsb'_append_skip (by decide) BitVec.extractLsb'_append_eq_right
  · exact BitVec.extractLsb'_append_eq_right

theorem groupBeat_lane (g : List Byte) {j : Nat} (hj : j < 4) : beatByte (groupBeat g).2 j = g.getD j 0 := by
  rw [groupBeat, beatByte_be32 _ _ _ _ hj]
  interval_cases j <;> rfl

theorem groupBeat_bytes {g : List Byte} (hg : g.length ≤ 4) : beatBytes (groupBeat g).1 (groupBeat g).2 = g := by
  apply List.ext_getElem
  · rw [beatBytes_length, groupBeat_len hg]
  · intro j _ hj
    simp [beatBytes, groupBeat_lane g (show j < 4 by omega), hj]

/-! ### The beats of a list of bytes -/

theorem assembledBeats_len (bs : List Byte) : ∀ b ∈ assembledBeats bs, 1 ≤ b.1.toNat ∧ b.1.toNat ≤ 4 := by
  intro b hb
  obtain ⟨g, hg, rfl⟩ := List.mem_map.1 hb
  have hlen := byteGroups_length bs g hg
  rwa [groupBeat_len hlen.2]

theorem beatsMessage_assembledBeats (bs : List Byte) : beatsMessage (assembledBeats bs) = bs :=
  calc beatsMessage (assembledBeats bs)
      = (byteGroups bs).flatMap fun g => beatBytes (groupBeat g).1 (groupBeat g).2 := List.flatMap_map ..
    _ = (byteGroups bs).flatMap id := List.flatMap_congr fun g hg => groupBeat_bytes (byteGroups_length bs g hg).2
    _ = bs := by rw [List.flatMap_id, byteGroups_flatten]

/-- Settles O59: the beats are those of the groups, each of one to four bytes, four before the last. -/
theorem assembledBeatsCarryBytes : Obligations.AssembledBeatsCarryBytes := by
  unfold Obligations.AssembledBeatsCarryBytes
  intro bs
  refine ⟨assembledBeats bs, byteBeats_eq bs, assembledBeats_len bs, fun b hb => ?_, fun b hb j hj hj4 => ?_,
    beatsMessage_assembledBeats bs, fun hbs => ?_⟩
  · rw [assembledBeats, ← List.map_dropLast] at hb
    obtain ⟨g, hg, rfl⟩ := List.mem_map.1 hb
    rw [groupBeat, byteGroups_dropLast bs g hg]
    rfl
  · obtain ⟨g, hg, rfl⟩ := List.mem_map.1 hb
    rw [groupBeat_len (byteGroups_length bs g hg).2] at hj
    exact (groupBeat_lane g hj4).trans (List.getD_eq_default _ _ hj)
  · rw [hbs, byteBeats]

/-! ### HASH.STR -/

/-- HASH.STR expands to INIT, the beats of the text's bytes, FINALIZE. -/
theorem hashStr_words {text : List Char} {bs : List Byte} (h : strBytes text = some bs) :
    AsmLine.words (.hashStr text) = some ((hashCommands (assembledBeats bs)).map encode) := by
  rw [AsmLine.words, h, Option.map_some, byteBeats_eq, hashCommands, messageCommands, List.map_append, List.map_cons,
    List.map_singleton]

/-- Settles O60: the words are those of a message cut into beats, whose digest FINALIZE leaves. -/
theorem hashStrHashesText : Obligations.HashStrHashesText := by
  unfold Obligations.HashStrHashesText
  intro s text bs htext hmax
  have hmsg := beatsMessage_assembledBeats bs
  obtain ⟨u, -, hrun, hdigest⟩ := acceptAll_hashCommands_digest s (beats := assembledBeats bs)
    (fun b hb => (assembledBeats_len bs b hb).2) (by rwa [hmsg])
  rw [hmsg] at hdigest
  exact ⟨_, finalizeContext u, hashStr_words htext, hrun, hdigest, finalizeContext_digestValid u⟩

end Sys2Proof.Machine
end

section
/-! PROOFS. The logical functions bit by bit, and the roots in the ROMs (rules R65 to R72). -/

namespace Sys2Proof.Machine

/-! ### The logical functions -/

/-- Settles O40: what the gates of Ch and Maj do to one bit of each word is a truth table. -/
theorem chooseAndMajority : Obligations.ChooseAndMajority := by
  unfold Obligations.ChooseAndMajority
  refine ⟨fun x y z i hi => ⟨?_, ?_⟩, by decide, by decide⟩
  · simp only [ch, BitVec.getLsbD_xor, BitVec.getLsbD_and, BitVec.getLsbD_not, hi]
    cases x.getLsbD i <;> simp
  · simp only [maj, BitVec.getLsbD_xor, BitVec.getLsbD_and]
    generalize x.getLsbD i = p, y.getLsbD i = q, z.getLsbD i = r
    revert p q r
    decide

/-- A rotation takes its bits from `n` places up, modulo the word's width (R10). -/
theorem rotr_getLsbD (x : Word) {n i : Nat} (hn : n < 32) (hi : i < 32) :
    (rotr x n).getLsbD i = x.getLsbD ((i + n) % 32) := by
  rw [rotr_eq_rotateRight x hn, BitVec.getLsbD_rotateRight, Nat.mod_eq_of_lt hn, Bool.cond_decide]
  split_ifs with h
  · rw [Nat.mod_eq_of_lt (by omega), Nat.add_comm]
  · rw [decide_eq_true hi, Bool.true_and, show (i + n) % 32 = i - (32 - n) by omega]

/-- A shift takes its bits from `n` places up, zeros past the top (R10). -/
theorem shr_getLsbD (x : Word) (n i : Nat) : (shr x n).getLsbD i = x.getLsbD (i + n) := by
  rw [shr, BitVec.getLsbD_ushiftRight, Nat.add_comm]

/-- Settles O41: each term is a rotation or a shift. -/
theorem sigmaBits : Obligations.SigmaBits := by
  unfold Obligations.SigmaBits
  intro x i hi
  have hrotr (n : Nat) (hn : n < 32) := rotr_getLsbD x hn hi
  refine ⟨?_, ?_, ?_, ?_⟩
  · rw [bigSigma0, BitVec.getLsbD_xor, BitVec.getLsbD_xor, hrotr 2 (by decide), hrotr 13 (by decide),
      hrotr 22 (by decide)]
  · rw [bigSigma1, BitVec.getLsbD_xor, BitVec.getLsbD_xor, hrotr 6 (by decide), hrotr 11 (by decide),
      hrotr 25 (by decide)]
  · rw [smallSigma0, BitVec.getLsbD_xor, BitVec.getLsbD_xor, hrotr 7 (by decide), hrotr 18 (by decide), shr_getLsbD]
  · rw [smallSigma1, BitVec.getLsbD_xor, BitVec.getLsbD_xor, hrotr 17 (by decide), hrotr 19 (by decide), shr_getLsbD]

/-! ### The ROMs -/

/-- Below 18² a number is prime when no divisor from 2 to 17 shows that it is not. -/
theorem prime_iff_of_lt {p : Nat} (hp : p < 18 * 18) :
    p.Prime ↔ 2 ≤ p ∧ ∀ m < 18, 2 ≤ m → m * m ≤ p → ¬ m ∣ p := by
  rw [Nat.prime_def_le_sqrt]
  refine and_congr_right fun _ => ⟨fun h m _ hm hmp => h m hm (Nat.le_sqrt.2 hmp), fun h m hm hmp => ?_⟩
  have hsq : m * m ≤ p := Nat.le_sqrt.1 hmp
  exact h m (Nat.mul_self_lt_mul_self_iff.1 (hsq.trans_lt hp)) hm hsq

/-- The list of the model is the list of all primes up to 311. -/
theorem mem_firstPrimes_iff {p : Nat} (hp : p ≤ 311) : p ∈ firstPrimes ↔ p.Prime := by
  have hsieve : ∀ p < 312, p ∈ firstPrimes ↔ 2 ≤ p ∧ ∀ m < 18, 2 ≤ m → m * m ≤ p → ¬ m ∣ p := by decide +kernel
  rw [prime_iff_of_lt (by omega), hsieve p (by omega)]

/-- A word is the first 32 bits of the fractional part of an `n`-th root when some integer part `q` before it makes it
the root. -/
theorem exists_root_of_integerPart {n N : Nat} {w : Word}
    (h : ∃ q < 8, (q * 2 ^ 32 + w.toNat) ^ n ≤ N ∧ N < (q * 2 ^ 32 + w.toNat + 1) ^ n) :
    ∃ r, r ^ n ≤ N ∧ N < (r + 1) ^ n ∧ w.toNat = r % 2 ^ 32 := by
  obtain ⟨q, -, hle, hlt⟩ := h
  refine ⟨q * 2 ^ 32 + w.toNat, hle, hlt, ?_⟩
  rw [Nat.mul_add_mod_self_right, Nat.mod_eq_of_lt w.isLt]

/-- Settles O42: the list is checked against a sieve, each word against the power of the root it belongs to. -/
theorem romsAreRootsOfPrimes : Obligations.RomsAreRootsOfPrimes := by
  unfold Obligations.RomsAreRootsOfPrimes
  have hcube : ∀ t < 64, ∃ q < 8, (q * 2 ^ 32 + (kWord t).toNat) ^ 3 ≤ firstPrimes.getD t 0 * 2 ^ 96 ∧
      firstPrimes.getD t 0 * 2 ^ 96 < (q * 2 ^ 32 + (kWord t).toNat + 1) ^ 3 := by decide
  have hsquare : ∀ i < 8, ∃ q < 8, (q * 2 ^ 32 + (iv.toList.getD i 0).toNat) ^ 2 ≤ firstPrimes.getD i 0 * 2 ^ 64 ∧
      firstPrimes.getD i 0 * 2 ^ 64 < (q * 2 ^ 32 + (iv.toList.getD i 0).toNat + 1) ^ 2 := by decide
  exact ⟨fun _ => mem_firstPrimes_iff, rfl, rfl, by decide, fun t ht => exists_root_of_integerPart (hcube t ht),
    fun i hi => exists_root_of_integerPart (hsquare i hi)⟩

end Sys2Proof.Machine
end

section
/-! PROOFS. The message schedule and the iterative datapath against it: the window invariant, what LOAD, 64 ROUND edges
and ADD compute, and the words of the window that no output depends on (rules R73, R77 to R82). -/

namespace Sys2Proof.Machine

/-- Settles O43: the first words are kept as the recurrence carries the schedule on. -/
theorem scheduleRecurrence : Obligations.ScheduleRecurrence := by
  unfold Obligations.ScheduleRecurrence
  intro b
  have hlen := blockWords_toList_length b
  refine ⟨?_, fun i => schedule_getD_of_lt b i.isLt, fun t ht hlt => ?_⟩
  · rw [schedule, extendSchedule_length, hlen]
  · exact extendSchedule_recurrence 48 hlen.ge (by omega) (by omega)

/-! ### The datapath's edges -/

/-- The ROUND edges after a LOAD, whatever the state it came from (R78). -/
theorem roundEdge_iterate_loadEdge (b : Block) (s : State) {k : Nat} (hk : k ≤ 64) :
    roundEdge^[k] (loadEdge b s) = afterRounds b k s := by
  induction k with
  | zero => exact (afterRounds_zero b s).symm
  | succ k ih => rw [Function.iterate_succ_apply', ih (by omega), roundEdge_afterRounds b s (by omega)]

section
variable (b : Block) (s : State)

theorem afterRounds_estate_of_lt {k : Nat} (hk : k < 64) : (afterRounds b k s).estate = .round :=
  if_neg (by omega)

theorem afterRounds_t_toNat {k : Nat} (hk : k < 64) : (afterRounds b k s).t.toNat = k :=
  (BitVec.toNat_ofNat ..).trans (Nat.mod_eq_of_lt hk)

theorem afterRounds_wr_get (k : Nat) {i : Nat} (hi : i < 16) :
    (afterRounds b k s).wr[i] = (extendedSchedule b).getD (k + i) 0 :=
  scheduleWindow_get b k hi

end

/-- Settles O45: the state after `k` ROUND edges is known as a whole. -/
theorem windowInvariant : Obligations.WindowInvariant := by
  unfold Obligations.WindowInvariant
  intro s b k hk
  rw [roundEdge_iterate_loadEdge b s hk.le]
  refine ⟨afterRounds_estate_of_lt b s hk, afterRounds_t_toNat b s hk, fun i => afterRounds_wr_get b s k i.isLt, ?_⟩
  exact (afterRounds_wr_get b s k (by decide)).trans (extendedSchedule_getD_of_lt b hk)

/-- Settles O46: the ADD edge after the 64 rounds leaves what the engine leaves at the transaction level. -/
theorem datapathComputesCompress : Obligations.DatapathComputesCompress := by
  unfold Obligations.DatapathComputesCompress
  intro s b
  refine ⟨fun k hk => ?_, ?_⟩
  · rw [roundEdge_iterate_loadEdge b s hk, afterRounds]
  · rw [roundEdge_iterate_loadEdge b s le_rfl, addEdge_afterRounds]
    simp only [runEngine]

/-! ### The words no output depends on -/

/-- The first `n` words of two windows are the same. -/
def AgreeBelow (n : Nat) (wr wr' : Vector Word 16) : Prop :=
  ∀ (i : Nat) (_ : i < 16), i < n → wr[i] = wr'[i]

/-- A shift moves the words the windows agree on one place down; the word shifted in counts among them when the windows
agreed everywhere (R78). -/
theorem AgreeBelow.shiftWindow {n : Nat} {wr wr' : Vector Word 16} (h : AgreeBelow (n + 1) wr wr') :
    AgreeBelow n (shiftWindow wr) (shiftWindow wr') := by
  intro i hi hin
  rcases Nat.lt_or_ge i 15 with hlt | hge
  · rw [shiftWindow_get_of_lt _ hlt, shiftWindow_get_of_lt _ hlt]
    exact h (i + 1) (by omega) (by omega)
  · obtain rfl : i = 15 := by omega
    rw [shiftWindow_get_last, shiftWindow_get_last, shiftIn, shiftIn, h 14 (by omega) (by omega),
      h 9 (by omega) (by omega), h 1 (by omega) (by omega), h 0 (by omega) (by omega)]

/-- A ROUND edge reads the first word of the window alone; the rest it only shifts (R78). -/
theorem roundEdge_with_wr {s : State} {wr : Vector Word 16} (h : s.wr[0] = wr[0]) :
    roundEdge { s with wr := wr } = { roundEdge s with wr := shiftWindow wr } := by
  simp only [roundEdge, h]

/-- `n` ROUND edges and an ADD edge use the first `n` words of the window alone (R82). -/
theorem addEdge_rounds_with_wr (n : Nat) {s : State} {wr : Vector Word 16} (h : AgreeBelow n s.wr wr) :
    addEdge (roundEdge^[n] { s with wr := wr }) = addEdge (roundEdge^[n] s) := by
  induction n generalizing s wr with
  | zero => rfl
  | succ n ih =>
    rw [Function.iterate_succ_apply, Function.iterate_succ_apply,
      roundEdge_with_wr (h 0 (by omega) (by omega))]
    exact ih h.shiftWindow

/-- Settles O47: as many words are used as rounds remain. -/
theorem lateScheduleWordsUnused : Obligations.LateScheduleWordsUnused := by
  unfold Obligations.LateScheduleWordsUnused
  intro s wr _ hagree
  have hbelow : AgreeBelow (64 - s.t.toNat) s.wr wr := fun i hi hlt =>
    have hidx : s.t.toNat + i ≤ 63 := by omega
    hagree ⟨i, hi⟩ hidx
  exact addEdge_rounds_with_wr _ hbelow

end Sys2Proof.Machine
end

section
/-! PROOFS. NOP and INIT, what of the state before an INIT survives it, and where UPDATE and FINALIZE trap (rules R84 to
R86, R88, R89, R96). -/

namespace Sys2Proof

open Sys2Proof.Machine

/-! ### NOP (R84) -/

/-- A word with OP = 0 and a bit set below OP is no command. -/
theorem decode_of_opZero {w : CmdWord} (hop : w.toNat / 2 ^ 36 = 0) (hw : w ≠ 0) : decode w = .error .badFormat := by
  have hrest : w.toNat % 2 ^ 36 ≠ 0 := by
    intro h0
    have hzero : w.toNat = 0 := by omega
    exact hw (BitVec.eq_of_toNat_eq hzero)
  rw [decode_eq_numeric, if_neg (by omega), if_neg (by omega), if_pos hrest]

/-- Settles O16: NOP's arm is the identity, and any other word with OP = 0 fails the format check. -/
theorem nopChangesNothing : Obligations.NopChangesNothing := by
  unfold Obligations.NopChangesNothing
  refine ⟨fun s => rfl, by decide, fun w s hop hw => ?_⟩
  have hd := decode_of_opZero hop hw
  exact ⟨hd, acceptWord_of_decode_error hd s⟩

/-! ### INIT (R85) -/

theorem statusRegister_initContext {s : State} (hb : s.busy = false) :
    (initContext s).statusRegister = 0x00000001 := by
  simp only [State.statusRegister, initContext_bufLen, initContext_errCode, initContext_digestValid, initContext_busy,
    initContext_phase, hb]
  decide

/-- Settles O17: INIT has one outcome, whatever the phase. -/
theorem initStartsMessage : Obligations.InitStartsMessage := by
  unfold Obligations.InitStartsMessage
  intro s
  exact ⟨initContext s, rfl, rfl, statusRegister_initContext⟩

/-! ### No residue of the state INIT found (R85) -/

section
variable {s s' : State}

/-- A word, legal or not, leaves the same context from two states with the same context. -/
theorem SameContext.after_acceptWord (h : SameContext s s') (w : CmdWord) :
    ∃ u u' : State, acceptWord w s = .next u ∧ acceptWord w s' = .next u' ∧ SameContext u u' := by
  unfold acceptWord
  rcases decode w with i | e
  · exact h.after_exec i
  · exact ⟨_, _, rfl, rfl, h.after_cmdError _⟩

theorem SameContext.after_acceptAll (h : SameContext s s') (ws : List CmdWord) :
    ∃ t t' : State, acceptAll ws s = .next t ∧ acceptAll ws s' = .next t' ∧ SameContext t t' := by
  induction ws generalizing s s' with
  | nil => exact ⟨s, s', rfl, rfl, h⟩
  | cons w ws ih =>
    obtain ⟨u, u', hu, hu', hc⟩ := h.after_acceptWord w
    rw [acceptAll_next ws hu, acceptAll_next ws hu']
    exact ih hc

/-- A legal state with BUSY = 0 has nothing outside the context but what R21 and R29 to R32 fix, so INIT leaves the same
state from any two with the same coming inputs. -/
theorem initContext_eq_of_legal (h : Legal s) (h' : Legal s') (hb : s.busy = false) (hb' : s'.busy = false)
    (hi : s.inputs = s'.inputs) : initContext s = initContext s' := by
  obtain ⟨hq, he⟩ := h.quiet hb
  obtain ⟨hq', he'⟩ := h'.quiet hb'
  obtain ⟨hw, hr⟩ := h.scratch_zero he
  obtain ⟨hw', hr'⟩ := h'.scratch_zero he'
  have ht : s.t = 0 := h.counter_zero (by simp [he])
  have ht' : s'.t = 0 := h'.counter_zero (by simp [he'])
  simp only [initContext, hb, hb', hi, hq, hq', he, he', hw, hw', hr, hr', ht, ht']

end

/-- Settles O18: INIT sets the whole context, and no word that follows looks beyond it. -/
theorem initLeavesNoResidue : Obligations.InitLeavesNoResidue := by
  unfold Obligations.InitLeavesNoResidue
  intro s s' ws
  have hinit (u : State) : acceptAll (encode .init :: ws) u = acceptAll ws (initContext u) :=
    acceptAll_next ws (acceptWord_encode (i := .init) rfl u)
  obtain ⟨t, t', ht, ht', hc⟩ := (sameContext_initContext s s').after_acceptAll ws
  rw [hinit, hinit]
  refine ⟨⟨t, t', ht, ht', hc⟩, fun h h' hb hb' hi => ⟨t, ht, ?_⟩⟩
  rw [← initContext_eq_of_legal h h' hb hb' hi, ht]

/-! ### The traps of UPDATE and FINALIZE (R86, R88, R89) -/

theorem exec_update_notActive {s : State} (hp : s.phase ≠ .active) {n : BitVec 3} (hn : n.toNat ≤ 4) (d : Word) :
    exec (.update n d) s = .next (cmdError .notActive s) := by
  have herr : updateError n s = some .notActive := by
    rw [updateError, Config.beatMaxBytes, if_neg (Nat.not_lt.2 hn), if_pos hp]
  rw [exec_update, herr]

theorem exec_update_lengthOverflow {s : State} (hp : s.phase = .active) {n : BitVec 3} (hn : n.toNat ≤ 4)
    (hmax : 2 ^ 61 - 1 < s.totalLen.toNat + n.toNat) (d : Word) :
    exec (.update n d) s = .next (cmdError .lengthOverflow s) := by
  have herr : updateError n s = some .lengthOverflow := by
    rw [updateError, Config.beatMaxBytes, Config.maxMsgBytes, if_neg (Nat.not_lt.2 hn), if_neg (not_not.2 hp),
      if_pos hmax]
  rw [exec_update, herr]

theorem exec_finalize_notActive {s : State} (hp : s.phase ≠ .active) :
    exec .finalize s = .next (cmdError .notActive s) := by
  rw [exec_finalize, finalizeError, if_pos hp]

/-- Settles O28: the error entry leaves the zero context, and its code when PHASE was not ERROR. -/
theorem phaseAndLengthTraps : Obligations.PhaseAndLengthTraps := by
  unfold Obligations.PhaseAndLengthTraps
  intro s
  refine ⟨fun hp => ⟨fun n d hn => exec_update_notActive hp hn d, exec_finalize_notActive hp⟩, ?_⟩
  intro n d hp hn hmax
  have hcode : (cmdError .lengthOverflow s).errCode = .lengthOverflow := by simp [hp]
  exact ⟨_, exec_update_lengthOverflow hp hn hmax d, hcode, rfl, rfl, rfl, rfl, rfl⟩

/-- Settles O21: in ACTIVE there is no byte to absorb or count; elsewhere the phase check comes first. -/
theorem zeroLengthUpdate : Obligations.ZeroLengthUpdate := by
  unfold Obligations.ZeroLengthUpdate
  intro s d
  have hzero : (0 : BitVec 3).toNat ≤ 4 := by decide
  refine ⟨fun hp hmax => ?_, fun hp => exec_update_notActive hp hzero d⟩
  calc exec (.update 0 d) s = .next (absorbMessage [] s) := exec_update_eq_absorbMessage d hp hzero hmax
    _ = .next s := by rw [absorbMessage_nil]

end Sys2Proof
end

section
/-! PROOFS. The blocks of UPDATE and FINALIZE byte by byte, and everything else they leave (rules R43, R58, R86, R87, R89
to R93). -/

namespace Sys2Proof.Machine

/-! ### UPDATE (R86, R87) -/

/-- The block an UPDATE fills without reaching its end. -/
theorem fillBlock_beatBytes (n : Nat) (len : BitVec 3) (d : Word) (b : Block) {i : Nat} (hi : i < 64) :
    (fillBlock n (beatBytes len d) b)[i] =
      if n ≤ i ∧ i < n + len.toNat then beatByte d (i - n) else b[i] := by
  rw [fillBlock_get, beatBytes_length]
  split_ifs with h
  · exact beatBytes_getD len d _ (by omega)
  · rfl

/-- The block a beat completes from index `n` on. -/
theorem fillBlock_take_beatBytes {n : Nat} {len : BitVec 3} (d : Word) (b : Block) (h : 64 ≤ n + len.toNat)
    {i : Nat} (hi : i < 64) :
    (fillBlock n ((beatBytes len d).take (64 - n)) b)[i] = if n ≤ i then beatByte d (i - n) else b[i] := by
  rw [fillBlock_get, List.length_take, beatBytes_length]
  by_cases hni : n ≤ i
  · rw [if_pos (by omega), if_pos hni, List.getD_eq_getElem?_getD, List.getElem?_take_of_lt (by omega),
      ← List.getD_eq_getElem?_getD, beatBytes_getD len d _ (by omega)]
  · rw [if_neg (by omega), if_neg hni]

/-- The block that a beat's bytes from the `k`-th on start. -/
theorem fillBlock_drop_beatBytes (k : Nat) (len : BitVec 3) (d : Word) {i : Nat} (hi : i < 64) :
    (fillBlock 0 ((beatBytes len d).drop k) zeroBlock)[i] = if i < len.toNat - k then beatByte d (i + k) else 0 := by
  rw [fillBlock_get, List.length_drop, beatBytes_length, zeroBlock_get i hi, Nat.sub_zero]
  by_cases hlt : i < len.toNat - k
  · rw [if_pos (by omega), if_pos hlt, List.getD_eq_getElem?_getD, List.getElem?_drop, ← List.getD_eq_getElem?_getD,
      Nat.add_comm k i, beatBytes_getD len d _ (by omega)]
  · rw [if_neg (by omega), if_neg hlt]

/-- Settles O19: the beat's bytes are absorbed into a buffer they do not fill. -/
theorem updateWithinBlock : Obligations.UpdateWithinBlock := by
  unfold Obligations.UpdateWithinBlock
  intro s n d hp hn hmax hlt
  refine ⟨fillBlock s.bufLen.toNat (beatBytes n d) s.buf, fun i => fillBlock_beatBytes _ n d _ i.isLt, ?_⟩
  rw [exec_update_eq_absorbMessage d hp hn hmax, absorbMessage, absorbAll_within _ _ (by rwa [beatBytes_length]),
    beatBytes_length]

/-- Settles O20: the beat's bytes are cut at the block boundary. -/
theorem updateAcrossBlock : Obligations.UpdateAcrossBlock := by
  unfold Obligations.UpdateAcrossBlock
  intro s n d hp hn hmax hge
  have hroom : n.toNat - (64 - s.bufLen.toNat) = s.bufLen.toNat + n.toNat - 64 := by
    have hl := s.bufLen.isLt
    omega
  refine ⟨fillBlock s.bufLen.toNat ((beatBytes n d).take (64 - s.bufLen.toNat)) s.buf,
    fillBlock 0 ((beatBytes n d).drop (64 - s.bufLen.toNat)) zeroBlock,
    fun i => fillBlock_take_beatBytes d _ hge i.isLt, fun i => ?_, ?_⟩
  · rw [← hroom]
    exact fillBlock_drop_beatBytes _ n d i.isLt
  · rw [exec_update_eq_absorbMessage d hp hn hmax, absorbMessage,
      absorbAll_across _ _ (by rwa [beatBytes_length]) (by rw [beatBytes_length]; omega), beatBytes_length, hroom]
    simp only [runEngine]

/-! ### The bit length (R90) -/

theorem bitLength_toNat {s : State} (h : s.totalLen.toNat ≤ 2 ^ 61 - 1) :
    (bitLength s).toNat = s.totalLen.toNat * 8 := by
  have hmul : (bitLength s).toNat = s.totalLen.toNat * 8 % 2 ^ 64 := BitVec.toNat_mul ..
  omega

/-- Settles O53: eight times the limit is below 2^64. -/
theorem bitLengthIsExact : Obligations.BitLengthIsExact := by
  unfold Obligations.BitLengthIsExact
  intro s h
  exact bitLength_toNat h

/-- The bytes of `BE64` as digits in base 256 (R11). -/
theorem be64Byte_toNat (v : BitVec 64) {k : Nat} (hk : k < 8) :
    (be64Byte v k).toNat = v.toNat / 256 ^ (7 - k) % 256 := by
  have hpow : (256 : Nat) ^ (7 - k) = 2 ^ (56 - 8 * k) := by
    rw [show 56 - 8 * k = 8 * (7 - k) by omega, Nat.pow_mul]
  rw [be64Byte, BitVec.extractLsb'_toNat, Nat.shiftRight_eq_div_pow, hpow]

/-- `BE64` of a number, which need not fit in 64 bits: the digits of its low half. -/
theorem be64Byte_ofNat_toNat (v : Nat) {k : Nat} (hk : k < 8) :
    (be64Byte (BitVec.ofNat 64 v) k).toNat = v / 256 ^ (7 - k) % 256 := by
  have hdvd : 256 ^ (7 - k) * 256 ∣ 2 ^ 64 := by
    rw [← Nat.pow_succ]
    exact Nat.pow_dvd_pow 256 (n := 8) (by omega)
  rw [be64Byte_toNat _ hk, BitVec.toNat_ofNat, ← Nat.mod_mul_right_div_self, Nat.mod_mod_of_dvd _ hdvd,
    Nat.mod_mul_right_div_self]

/-- The length field at the end of FINALIZE's last block (R91). -/
theorem withLength_bitLength_toNat {s : State} (h : s.totalLen.toNat ≤ 2 ^ 61 - 1) (b : Block) (i : Fin 64)
    (hi : 56 ≤ i.val) :
    ((withLength (bitLength s) b)[i]).toNat = s.totalLen.toNat * 8 / 256 ^ (63 - i.val) % 256 := by
  rw [Fin.getElem_fin, withLength_get, if_neg (by omega), be64Byte_toNat _ (by omega), bitLength_toNat h,
    show 7 - (i.val - 56) = 63 - i.val by omega]

theorem withLength_get_of_lt (l : BitVec 64) (b : Block) (i : Fin 64) (hi : i.val < 56) :
    (withLength l b)[i] = b[i] := by
  rw [Fin.getElem_fin, withLength_get, if_pos hi]
  rfl

/-! ### FINALIZE (R89, R92, R93) -/

/-- Everything a FINALIZE in ACTIVE leaves; the digest is the H of its last compression. -/
theorem exec_finalize_active {s : State} (hp : s.phase = .active) :
    exec .finalize s = .next { s with
      h := Words8.zero
      buf := Vector.replicate 64 0
      bufLen := 0
      totalLen := 0
      phase := .idle
      digest := (padAndCompress (bitLength s) s).h
      digestValid := true
      work := Words8.zero
      wr := Vector.replicate 16 0
      t := 0
      estate := .idle } := by
  rw [exec_finalize, finalizeError_eq_none_iff.2 hp]
  simp [finalizeContext, zeroContext, writeDigest, zeroBlock]

section
variable (b : Block) (n : Nat) (i : Fin 64)

theorem padMark_get_of_lt (hi : i.val < n) : (padMark n b)[i] = b[i] := by
  rw [Fin.getElem_fin, padMark_get, if_pos hi]
  rfl

theorem padMark_get_mark (hi : i.val = n) : (padMark n b)[i] = 0x80 := by
  rw [Fin.getElem_fin, padMark_get, if_neg (by omega), if_pos hi]

theorem padMark_get_of_gt (hi : n < i.val) : (padMark n b)[i] = 0 := by
  rw [Fin.getElem_fin, padMark_get, if_neg (by omega), if_neg (by omega)]

end

/-- Settles O24: the marked buffer has room for the length. -/
theorem finalizeOneBlock : Obligations.FinalizeOneBlock := by
  unfold Obligations.FinalizeOneBlock
  intro s hp hl hmax
  have hkeep (i : Fin 64) (hi : i.val < 56) := withLength_get_of_lt (bitLength s) (padMark s.bufLen.toNat s.buf) i hi
  refine ⟨withLength (bitLength s) (padMark s.bufLen.toNat s.buf), fun i hi => ?_, fun i hi => ?_, fun i hi hlt => ?_,
    withLength_bitLength_toNat hmax _, ?_⟩
  · rw [hkeep i (by omega), padMark_get_of_lt _ _ i hi]
  · rw [hkeep i (by omega), padMark_get_mark _ _ i hi]
  · rw [hkeep i hlt, padMark_get_of_gt _ _ i hi]
  · rw [exec_finalize_active hp, padAndCompress_one _ s (by omega), runEngine_h]

/-- Settles O25: the marked buffer is a block of its own, and the length follows in a zero block. -/
theorem finalizeTwoBlocks : Obligations.FinalizeTwoBlocks := by
  unfold Obligations.FinalizeTwoBlocks
  intro s hp hl hmax
  refine ⟨padMark s.bufLen.toNat s.buf, withLength (bitLength s) zeroBlock, padMark_get_of_lt _ _, padMark_get_mark _ _,
    padMark_get_of_gt _ _, fun i hi => ?_, withLength_bitLength_toNat hmax _, ?_⟩
  · rw [withLength_get_of_lt _ _ i hi]
    exact zeroBlock_get i i.isLt
  · rw [exec_finalize_active hp, padAndCompress_two _ s hl, runEngine_h, runEngine_h]

end Sys2Proof.Machine
end

section
/-! PROOFS. A whole message: its padding, its digest and how often it makes the engine compress (rules R93 to R95). -/

namespace Sys2Proof.Machine

/-- Settles O54: the least z, and the padded message's three parts. -/
theorem paddingIsLeast : Obligations.PaddingIsLeast := by
  unfold Obligations.PaddingIsLeast
  intro m
  have hz : padZeros m.length = (119 - m.length % 64) % 64 := rfl
  refine ⟨by omega, fun z hmod => by omega, padMessage_length m, fun i hi => ?_, ?_, fun i hgt hi => ?_, ?_,
    fun k hk => ?_⟩
  · rw [padMessage_getD_of_lt m (by omega), if_pos hi]
  · rw [padMessage_getD_of_lt m (by omega), if_neg (by omega), if_pos rfl]
  · rw [padMessage_getD_of_lt m hi, if_neg (by omega), if_neg (by omega)]
  · rw [padMessage_length]
    split_ifs <;> omega
  · rw [padMessage_getD_length m hk, be64Byte_ofNat_toNat _ hk]

/-- Settles O56: the FINALIZE of a context that holds the message. -/
theorem digestIsSha256 : Obligations.DigestIsSha256 := by
  unfold Obligations.DigestIsSha256
  intro s beats hlen hmax
  obtain ⟨u, hm, hfin, hdigest⟩ := acceptAll_hashCommands_digest s hlen hmax
  exact ⟨_, hfin, hdigest, rfl, rfl, (finalizeContext_errCode u).trans hm.errCode_eq, rfl, rfl, rfl, rfl⟩

/-! ### The number of compressions (R95) -/

theorem compressionsInRun_next {i : Instr} {s t : State} (is : List Instr) (h : exec i s = .next t) :
    compressionsInRun (i :: is) s = compressionCount i s + compressionsInRun is t := by
  rw [compressionsInRun, h]

section
variable {m : List Byte} {s : State}

/-- A beat compresses once for the block it completes. -/
theorem HoldsMessage.compressionCount_update (h : HoldsMessage m s) {n : BitVec 3} (d : Word) (hn : n.toNat ≤ 4)
    (hmax : (m ++ beatBytes n d).length ≤ 2 ^ 61 - 1) :
    m.length / 64 + compressionCount (.update n d) s = (m ++ beatBytes n d).length / 64 := by
  have hl := h.absorbed.bufLen_eq
  have htot := h.totalLen_eq
  rw [List.length_append, beatBytes_length] at hmax ⊢
  have herr : updateError n s = none := updateError_eq_none_iff.2 ⟨hn, h.phase_eq, by omega⟩
  simp only [compressionCount, herr, Config.blockBytes, true_and]
  split_ifs <;> omega

theorem HoldsMessage.compressionCount_finalize (h : HoldsMessage m s) :
    compressionCount .finalize s = if m.length % 64 ≤ 55 then 1 else 2 := by
  have hl := h.absorbed.bufLen_eq
  have herr : finalizeError s = none := finalizeError_eq_none_iff.2 h.phase_eq
  rw [compressionCount, if_neg (not_not.2 herr)]
  split_ifs <;> omega

/-- The beats of a message compress once for every block they complete, whatever commands follow. -/
theorem HoldsMessage.compressionsInRun_beats (h : HoldsMessage m s) (beats : List (BitVec 3 × Word))
    (is : List Instr) (hlen : ∀ b ∈ beats, b.1.toNat ≤ 4) (hmax : (m ++ beatsMessage beats).length ≤ 2 ^ 61 - 1) :
    ∃ t : State, HoldsMessage (m ++ beatsMessage beats) t ∧
      m.length / 64 + compressionsInRun (beatCommands beats ++ is) s =
        (m ++ beatsMessage beats).length / 64 + compressionsInRun is t := by
  induction beats generalizing m s with
  | nil => exact ⟨s, by simpa [beatsMessage] using h, by simp [beatsMessage, beatCommands]⟩
  | cons b beats ih =>
    obtain ⟨hb, hbeats⟩ := List.forall_mem_cons.1 hlen
    rw [beatsMessage_cons, ← List.append_assoc] at hmax ⊢
    have hfirst : (m ++ beatBytes b.1 b.2).length ≤ 2 ^ 61 - 1 := by
      rw [List.length_append] at hmax
      omega
    obtain ⟨u, hu, hmu⟩ := h.beat b.2 hb hfirst
    obtain ⟨t, hmt, hcount⟩ := ih hmu hbeats hmax
    have hwf : (Instr.update b.1 b.2).wellFormed = true := decide_eq_true hb
    rw [acceptWord_encode hwf] at hu
    refine ⟨t, hmt, ?_⟩
    calc m.length / 64 + compressionsInRun (beatCommands (b :: beats) ++ is) s
        = m.length / 64 + (compressionCount (.update b.1 b.2) s + compressionsInRun (beatCommands beats ++ is) u) :=
          congrArg _ (compressionsInRun_next _ hu)
      _ = (m ++ beatBytes b.1 b.2).length / 64 + compressionsInRun (beatCommands beats ++ is) u := by
          rw [← Nat.add_assoc, h.compressionCount_update b.2 hb hfirst]
      _ = (m ++ beatBytes b.1 b.2 ++ beatsMessage beats).length / 64 + compressionsInRun is t := hcount

end

/-- INIT and the beats of a message, from any state, then the commands `is`. -/
theorem compressionsInRun_messageCommands (s : State) (beats : List (BitVec 3 × Word)) (is : List Instr)
    (hlen : ∀ b ∈ beats, b.1.toNat ≤ 4) (hmax : (beatsMessage beats).length ≤ 2 ^ 61 - 1) :
    ∃ t : State, HoldsMessage (beatsMessage beats) t ∧
      compressionsInRun (messageCommands beats ++ is) s =
        (beatsMessage beats).length / 64 + compressionsInRun is t := by
  have hinit : compressionsInRun (messageCommands beats ++ is) s =
      0 + compressionsInRun (beatCommands beats ++ is) (initContext s) := compressionsInRun_next _ rfl
  rw [hinit]
  exact (holdsMessage_initContext s).compressionsInRun_beats beats is hlen hmax

/-- Settles O58: no command after the beats, or FINALIZE alone. -/
theorem compressionsPerMessage : Obligations.CompressionsPerMessage := by
  unfold Obligations.CompressionsPerMessage
  intro s beats hlen hmax
  obtain ⟨u, -, hbeats⟩ := compressionsInRun_messageCommands s beats [] hlen hmax
  obtain ⟨t, hm, hall⟩ := compressionsInRun_messageCommands s beats [.finalize] hlen hmax
  rw [List.append_nil] at hbeats
  refine ⟨hbeats, hall.trans ?_⟩
  rw [← hm.compressionCount_finalize, compressionsInRun_next [] (exec_finalize t)]
  rfl

end Sys2Proof.Machine
end

section
/-! PROOFS. Command errors: their order, the error entry at both levels, and the ways out of ERROR (rules R97, R98, R99,
R101). -/

namespace Sys2Proof

open Sys2Proof.Machine

section
variable {w : CmdWord} {s t : State} {c : ErrCode}

/-! ### The error a word raises (R99) -/

theorem decode_of_reservedOp (h : 4 ≤ w.toNat / 2 ^ 36) : decode w = .error .reservedOp := by
  rw [decode_eq_numeric, if_pos h]

theorem wordError_of_decode_error {e : DecodeError} (h : decode w = .error e) (s : State) :
    wordError w s = some (decodeErrCode e) := by
  rw [wordError, h]

theorem wordError_of_decode_update {n : BitVec 3} {d : Word} (h : decode w = .command (.update n d)) (s : State) :
    wordError w s = updateError n s := by
  rw [wordError, h]

theorem wordError_of_decode_finalize (h : decode w = .command .finalize) (s : State) :
    wordError w s = finalizeError s := by
  rw [wordError, h]

theorem wordError_of_decode_nop_or_init (h : decode w = .command .nop ∨ decode w = .command .init) (s : State) :
    wordError w s = none := by
  obtain h | h := h <;> rw [wordError, h]

/-- An UPDATE of a decoded word carries at most four bytes (R61). -/
theorem updateLen_le_of_decode {n : BitVec 3} {d : Word} (h : decode w = .command (.update n d)) : n.toNat ≤ 4 :=
  of_decide_eq_true (wellFormed_of_decode h)

theorem updateError_eq_notActive {n : BitVec 3} (hn : n.toNat ≤ 4) (hp : s.phase ≠ .active) :
    updateError n s = some .notActive := by
  rw [updateError, Config.beatMaxBytes, if_neg (Nat.not_lt.2 hn), if_pos hp]

theorem updateError_eq_lengthOverflow {n : BitVec 3} (hn : n.toNat ≤ 4) (hp : s.phase = .active)
    (hmax : 2 ^ 61 - 1 < s.totalLen.toNat + n.toNat) : updateError n s = some .lengthOverflow := by
  rw [updateError, Config.beatMaxBytes, Config.maxMsgBytes, if_neg (Nat.not_lt.2 hn), if_neg (not_not.2 hp),
    if_pos hmax]

theorem finalizeError_eq_notActive (hp : s.phase ≠ .active) : finalizeError s = some .notActive := by
  rw [finalizeError, if_pos hp]

/-- Settles O26: the decoder's checks come first, then the command's own, PHASE before the length. -/
theorem errorPriority : Obligations.ErrorPriority := by
  unfold Obligations.ErrorPriority
  intro w s
  refine ⟨fun h4 => wordError_of_decode_error (decode_of_reservedOp h4) s,
    fun hd => ⟨?_, wordError_of_decode_error hd s⟩, fun n d hd => ?_, fun hd => ?_,
    fun hd => wordError_of_decode_nop_or_init hd s⟩
  · by_contra h4
    cases hd.symm.trans (decode_of_reservedOp (Nat.not_lt.1 h4))
  · have hn := updateLen_le_of_decode hd
    rw [wordError_of_decode_update hd]
    exact ⟨updateError_eq_notActive hn, updateError_eq_lengthOverflow hn,
      fun hp hmax => updateError_eq_none_iff.2 ⟨hn, hp, hmax⟩⟩
  · rw [wordError_of_decode_finalize hd]
    exact ⟨finalizeError_eq_notActive, finalizeError_eq_none_iff.2⟩

/-! ### The error entry (R97) -/

theorem acceptWord_of_wordError (h : wordError w s = some c) : acceptWord w s = .next (cmdError c s) := by
  obtain ⟨t, ht⟩ := acceptWord_next w s
  obtain ⟨c', hc', rfl⟩ | ⟨hnone, -⟩ := acceptWord_cases ht
  · cases hc'.symm.trans h
    exact ht
  · cases hnone.symm.trans h

/-- An erring word launches no compression, so both levels take the same entry. -/
theorem startWord_of_wordError (h : wordError w s = some c) : startWord w s = .next (cmdError c s) := by
  obtain ⟨t, ht⟩ := startWord_next w s
  obtain ha | ⟨n, d, hd, hnone, -⟩ | ⟨hd, hnone, -⟩ := startWord_cases ht
  · rw [ht, ← ha, acceptWord_of_wordError h]
  · rw [wordError_of_decode_update hd, hnone] at h
    cases h
  · rw [wordError_of_decode_finalize hd, hnone] at h
    cases h

/-- Settles O27: an erring word is the error entry at both levels, and the entry writes these fields only. -/
theorem errorEntry : Obligations.ErrorEntry := by
  unfold Obligations.ErrorEntry
  intro w s c h
  refine ⟨cmdError c s, ?_, acceptWord_of_wordError h, startWord_of_wordError h⟩
  rw [cmdError, ite_not]
  rfl

/-! ### In ERROR (R98, R101) -/

/-- Outside ACTIVE a legal state has an empty buffer of zeros (R18, R19). -/
theorem Legal.buffer_zero (h : Legal s) (hp : s.phase ≠ .active) : s.bufLen = 0 ∧ s.buf = zeroBlock := by
  obtain ⟨-, htotal⟩ := h.context_zero hp
  have hlen : s.bufLen.toNat = 0 := by simp [h.bufLen_eq, htotal]
  refine ⟨BitVec.eq_of_toNat_eq hlen, Vector.ext fun i hi => ?_⟩
  rw [zeroBlock_get i hi]
  exact h.tail_zero ⟨i, hi⟩ (by omega)

/-- In ERROR everything the error entry writes has its value already. -/
theorem Legal.cmdError_eq_self (h : Legal s) (hp : s.phase = .error) (c : ErrCode) : cmdError c s = s := by
  have hna : s.phase ≠ .active := by simp [hp]
  obtain ⟨hh, htotal⟩ := h.context_zero hna
  obtain ⟨hlen, hbuf⟩ := h.buffer_zero hna
  have hvalid : s.digestValid = false := h.valid_idle (by simp [hp])
  have hdigest := h.digest_zero hvalid
  cases s
  simp only at hh htotal hlen hbuf hp hvalid hdigest
  simp only [cmdError, zeroContext, hh, htotal, hlen, hbuf, hp, hvalid, hdigest, ne_eq, not_true_eq_false, if_false]

theorem Legal.acceptWord_eq_self (h : Legal s) (hp : s.phase = .error) (hw : w ≠ encode .init) :
    acceptWord w s = .next s := by
  have hna : s.phase ≠ .active := by simp [hp]
  obtain ⟨t, ht⟩ := acceptWord_next w s
  obtain ⟨c, -, rfl⟩ | ⟨-, ⟨-, rfl⟩ | ⟨hd, -⟩ | ⟨n, d, -, he, -⟩ | ⟨-, he, -⟩⟩ := acceptWord_cases ht
  · rw [ht, h.cmdError_eq_self hp]
  · exact ht
  · exact absurd (eq_encode_of_decode hd) hw
  · obtain ⟨-, hact, -⟩ := updateError_eq_none_iff.1 he
    exact absurd hact hna
  · exact absurd (finalizeError_eq_none_iff.1 he) hna

/-- Settles O29: NOP does nothing, and every other word but INIT errs where the error entry changes nothing. -/
theorem errorIsSticky : Obligations.ErrorIsSticky := by
  unfold Obligations.ErrorIsSticky
  intro s w h hp hw
  exact h.acceptWord_eq_self hp hw

/-- Settles O30: a legal state in ERROR is not busy, and there every word but INIT leaves it as it is. -/
theorem onlyInitAndResetLeaveError : Obligations.OnlyInitAndResetLeaveError := by
  unfold Obligations.OnlyInitAndResetLeaveError
  intro s t h hp hstep hne
  obtain ⟨hr, rfl⟩ | ⟨hb, -⟩ | ⟨hacc, hword⟩ | rfl := step_cases hstep
  · exact ⟨rfl, .inl hr⟩
  · cases hp.symm.trans (h.busy_active hb)
  · by_cases hw : s.nextInput.cmd = encode .init
    · rw [hw, acceptWord_encode rfl] at hword
      cases hword
      exact ⟨rfl, .inr ⟨hacc, hw, rfl⟩⟩
    · have hself := h.after_popInput.acceptWord_eq_self hp hw
      cases hself.symm.trans hword
      exact absurd hp hne
  · exact absurd hp hne

end

end Sys2Proof
end

section
/-! PROOFS. Reset from any state, the runs that begin there, and the reference schedule's timing: how many edges a busy
command still has before it (rules R110, R115, R117 to R119). -/

namespace Sys2Proof

open Sys2Proof.Machine

/-! ### Reset (R110) -/

/-- An edge with rst = 1 resets at either level, whatever state it finds and whatever word is presented. -/
theorem edgeWith_reset (accept : CmdWord → State → Host.Outcome State Fault Refusal) {s : State}
    (hr : s.nextInput.rst = true) : edgeWith accept s = .next { State.reset with inputs := s.inputs.tail } := by
  rw [edgeWith, if_pos hr]
  rfl

/-- Settles O6: the edge does not look at the state it finds, and the state it leaves is not busy. -/
theorem resetEdgeFromAnyState : Obligations.ResetEdgeFromAnyState := by
  unfold Obligations.ResetEdgeFromAnyState
  intro s hr
  refine ⟨by simp [State.cmdReady, hr], _, rfl, edgeWith_reset acceptWord hr, edgeWith_reset startWord hr,
    fun ht => ?_, edgeWith_reset acceptWord⟩
  rw [State.cmdReady, ht]
  rfl

/-! ### Runs of legal states (R115) -/

/-- From a legal state no run of the core stops, and it passes legal states only. -/
theorem Legal.core_run {s : State} (h : Legal s) (k : Nat) :
    ∃ t : State, Host.Core.run core k s = .next t ∧ Legal t := by
  induction k generalizing s with
  | zero => exact ⟨s, core_run_zero s, h⟩
  | succ k ih =>
    obtain ⟨u, hu⟩ := (legalStateNeverStops s h).1
    rw [core_run_next k hu]
    exact ih (stepKeepsLegal s u h hu)

/-- Settles O11: the reset state is legal whatever the host does next. -/
theorem runsFromResetAreSafe : Obligations.RunsFromResetAreSafe := by
  unfold Obligations.RunsFromResetAreSafe
  intro ins k
  obtain ⟨t, ht, hlegal⟩ := (resetIsLegal.withInputs ins).core_run k
  exact ⟨t, ht, hlegal, fun _ => hlegal.digest_zero⟩

/-! ### The edges a busy command has left (R117) -/

/-- The edges SEQ still holds for when no compression is in flight: a FINALIZE's tail edge, and before it the LOAD,
the 64 ROUND edges and the ADD edge of its length block. -/
def pendingEdges : Seq → Nat
  | .nothing => 0
  | .digest => 1
  | .lengthBlock => 67

/-- The edges of the reference schedule after which a busy command is done: those of the compression in flight, from
round t on (the rounds t..63 and the ADD), and those SEQ holds. -/
def edgesLeft (s : State) : Nat :=
  if s.busy = false then 0
  else match s.estate with
    | .round => 65 - s.t.toNat + pendingEdges s.seq
    | .add => 1 + pendingEdges s.seq
    | .idle => pendingEdges s.seq

section
variable {s t : State}

theorem edgesLeft_of_not_busy (hb : s.busy = false) : edgesLeft s = 0 := if_pos hb

theorem edgesLeft_round (hb : s.busy = true) (he : s.estate = .round) :
    edgesLeft s = 65 - s.t.toNat + pendingEdges s.seq := by
  rw [edgesLeft, if_neg (by simp [hb]), he]

theorem edgesLeft_add (hb : s.busy = true) (he : s.estate = .add) : edgesLeft s = 1 + pendingEdges s.seq := by
  rw [edgesLeft, if_neg (by simp [hb]), he]

theorem edgesLeft_idle (hb : s.busy = true) (he : s.estate = .idle) : edgesLeft s = pendingEdges s.seq := by
  rw [edgesLeft, if_neg (by simp [hb]), he]

theorem edgesLeft_le (s : State) : edgesLeft s ≤ 132 := by
  have hq : pendingEdges s.seq ≤ 67 := by cases s.seq <;> decide
  unfold edgesLeft
  split_ifs
  · omega
  · split <;> omega

theorem busy_of_edgesLeft_pos (h : 0 < edgesLeft s) : s.busy = true := by
  by_contra hb
  rw [edgesLeft_of_not_busy (Bool.eq_false_iff.2 hb)] at h
  omega

/-- A busy command of a legal state has an edge left: with no compression in flight something is pending (R21). -/
theorem Legal.not_busy_of_edgesLeft (h : Legal s) (hl : edgesLeft s = 0) : s.busy = false := by
  by_contra hb
  rw [Bool.not_eq_false] at hb
  rcases he : s.estate with _ | _ | _
  · rw [edgesLeft_idle hb he] at hl
    rcases hq : s.seq with _ | _ | _
    · exact h.pending hb he hq
    · rw [hq] at hl
      cases hl
    · rw [hq] at hl
      cases hl
  · have ht := s.t.isLt
    rw [edgesLeft_round hb he] at hl
    omega
  · rw [edgesLeft_add hb he] at hl
    omega

/-! ### Every busy edge is one of them -/

theorem edgesLeft_roundEdge (hb : s.busy = true) (he : s.estate = .round) :
    edgesLeft s = edgesLeft (roundEdge s) + 1 := by
  rw [edgesLeft_round hb he]
  by_cases h63 : s.t = 63
  · rw [edgesLeft_add (s := roundEdge s) hb (if_pos h63), roundEdge_seq, h63]
    exact Nat.add_right_comm 1 1 _
  · have hlt : s.t.toNat < 63 := by bv_omega
    have hnext : (s.t + 1).toNat = s.t.toNat + 1 := by bv_omega
    rw [edgesLeft_round (s := roundEdge s) hb (if_neg h63), roundEdge_seq, roundEdge_t, if_neg h63, hnext]
    omega

theorem edgesLeft_addEdge (hb : s.busy = true) (he : s.estate = .add) :
    edgesLeft s = edgesLeft (addEdge s) + 1 := by
  have hleft : edgesLeft (addEdge s) = pendingEdges s.seq := by
    by_cases hq : s.seq = .nothing
    · rw [edgesLeft_of_not_busy (by simp [hq]), hq]
      rfl
    · exact edgesLeft_idle (by simpa using hq) rfl
  rw [edgesLeft_add hb he, hleft, Nat.add_comm]

/-- Every edge of a busy command leaves it one edge fewer. -/
theorem busyEdge_edgesLeft (hb : s.busy = true) (h : busyEdge s = .next t) : edgesLeft s = edgesLeft t + 1 := by
  obtain ⟨he, rfl⟩ | ⟨he, rfl⟩ | ⟨he, hq, rfl⟩ | ⟨he, hq, rfl⟩ := busyEdge_cases h
  · exact edgesLeft_roundEdge hb he
  · exact edgesLeft_addEdge hb he
  · rw [edgesLeft_idle hb he, hq]
    rfl
  · rw [edgesLeft_idle hb he, hq]
    rfl

theorem noReset_of_clockEdge (hr : NoReset s) (h : clockEdge s = .next t) : NoReset t :=
  fun x hx => hr x (List.mem_of_mem_tail (clockEdge_inputs h ▸ hx))

/-- Edges of the reference schedule without reset, as many as the busy command has left or fewer. -/
theorem Legal.clockEdges_edgesLeft (h : Legal s) (hr : NoReset s) {k n : Nat} (hk : edgesLeft s = k + n) :
    ∃ t, clockEdges k s = .next t ∧ Legal t ∧ edgesLeft t = n := by
  induction k generalizing s with
  | zero => exact ⟨s, rfl, h, by omega⟩
  | succ k ih =>
    have hb : s.busy = true := busy_of_edgesLeft_pos (by omega)
    obtain ⟨u, hu⟩ := (legalStateNeverStops s h).2
    have hbusy : busyEdge s.popInput = .next u := (clockEdge_busy (nextInput_rst_of_noReset hr) hb).symm.trans hu
    have hleft : edgesLeft s = edgesLeft u + 1 := busyEdge_edgesLeft (s := s.popInput) hb hbusy
    rw [clockEdges_next k hu]
    exact ih (clockEdgeKeepsLegal s u h hu) (noReset_of_clockEdge hr hu) (by omega)

/-! ### The edges a command occupies (R117, R118) -/

/-- R117's rows for UPDATE, with the reference values of the two timing parameters. -/
theorem edgesOccupied_update (n : BitVec 3) (d : Word) (s : State) :
    edgesOccupied Config.refCompressCycles Config.refFinalizeTailCycles (.update n d) s =
      if updateError n s = none ∧ 64 ≤ s.bufLen.toNat + n.toNat then 66 else 1 := by
  by_cases hn : updateError n s = none ∧ 64 ≤ s.bufLen.toNat + n.toNat
  · have hc : compressionCount (.update n d) s = 1 := if_pos hn
    rw [if_pos hn, edgesOccupied, hc]
    rfl
  · have hc : compressionCount (.update n d) s = 0 := if_neg hn
    rw [if_neg hn, edgesOccupied, if_pos hc]

/-- R117's rows for FINALIZE, with the reference values of the two timing parameters. -/
theorem edgesOccupied_finalize (s : State) :
    edgesOccupied Config.refCompressCycles Config.refFinalizeTailCycles .finalize s =
      if finalizeError s ≠ none then 1 else if 56 ≤ s.bufLen.toNat then 133 else 67 := by
  by_cases he : finalizeError s ≠ none
  · have hc : compressionCount .finalize s = 0 := if_pos he
    rw [if_pos he, edgesOccupied, if_pos hc]
  · have hc : compressionCount .finalize s = if 56 ≤ s.bufLen.toNat then 2 else 1 := if_neg he
    rw [if_neg he, edgesOccupied, hc]
    by_cases hl : 56 ≤ s.bufLen.toNat
    · rw [if_pos hl, if_pos hl]
      rfl
    · rw [if_neg hl, if_neg hl]
      rfl

theorem edgesLeft_updateLaunch (n : BitVec 3) (d : Word) (s : State) : edgesLeft (updateLaunch n d s) = 65 := rfl

theorem edgesLeft_finalizeLaunch (s : State) :
    edgesLeft (finalizeLaunch s) = if 56 ≤ s.bufLen.toNat then 132 else 66 := by
  unfold finalizeLaunch
  split_ifs <;> rfl

/-- A command that makes no compression is its transaction in the reference schedule too. -/
theorem startWord_eq_acceptWord {w : CmdWord} {i : Instr} (hd : decode w = .command i)
    (hc : compressionCount i s = 0) : startWord w s = acceptWord w s := by
  rw [startWord, acceptWord, hd]
  exact if_pos hc

/-- The acceptance edge of a command and the edges it leaves the command are those R117 gives it. -/
theorem edgesOccupied_eq_edgesLeft {w : CmdWord} {i : Instr} (hb : s.busy = false) (hd : decode w = .command i)
    (h : startWord w s = .next t) :
    edgesOccupied Config.refCompressCycles Config.refFinalizeTailCycles i s = edgesLeft t + 1 := by
  by_cases hc : compressionCount i s = 0
  · rw [startWord_eq_acceptWord hd hc] at h
    rw [edgesOccupied, if_pos hc, edgesLeft_of_not_busy ((acceptWord_keeps h).1.trans hb)]
  · rw [startWord, hd] at h
    replace h := (if_neg hc).symm.trans h
    cases i with
    | nop => exact absurd rfl hc
    | init => exact absurd rfl hc
    | update n d =>
      cases h
      rw [edgesOccupied_update, edgesLeft_updateLaunch, if_pos]
      by_contra hn
      exact hc (if_neg hn)
    | finalize =>
      cases h
      have herr : ¬ finalizeError s ≠ none := fun he => hc (if_pos he)
      rw [edgesOccupied_finalize, edgesLeft_finalizeLaunch, if_neg herr]
      split_ifs <;> rfl

end

/-- Settles O50: the acceptance edge, then one edge fewer left at every edge. -/
theorem referenceEdgesOccupied : Obligations.ReferenceEdgesOccupied := by
  unfold Obligations.ReferenceEdgesOccupied
  intro s i h hr hacc hd
  obtain ⟨-, hb, -⟩ := (accepts_iff s).1 hacc
  obtain ⟨v, hv⟩ := startWord_next s.nextInput.cmd s.popInput
  have hedge : clockEdge s = .next v := (clockEdge_accepts hacc).trans hv
  have hlegal : Legal v := clockEdgeKeepsLegal s v h hedge
  have hrv : NoReset v := noReset_of_clockEdge hr hedge
  have hcount : edgesOccupied Config.refCompressCycles Config.refFinalizeTailCycles i s = edgesLeft v + 1 :=
    edgesOccupied_eq_edgesLeft (s := s.popInput) hb hd hv
  rw [hcount]
  refine ⟨?_, fun k hpos hk => ?_⟩
  · obtain ⟨t, ht, hlt, hdone⟩ := hlegal.clockEdges_edgesLeft hrv (Nat.add_zero _).symm
    exact ⟨t, (clockEdges_next _ hedge).trans ht, hlt.not_busy_of_edgesLeft hdone⟩
  · obtain ⟨j, rfl⟩ := Nat.exists_eq_add_one_of_ne_zero hpos.ne'
    have hsplit : edgesLeft v = j + (edgesLeft v - j) := by omega
    obtain ⟨t, ht, -, hleft⟩ := hlegal.clockEdges_edgesLeft hrv hsplit
    exact ⟨t, (clockEdges_next j hedge).trans ht, busy_of_edgesLeft_pos (by omega)⟩

/-- Settles O51: the edges the busy state has left. -/
theorem busyCommandEnds : Obligations.BusyCommandEnds := by
  unfold Obligations.BusyCommandEnds
  intro s h hr _
  obtain ⟨t, ht, hlt, hdone⟩ := h.clockEdges_edgesLeft hr (Nat.add_zero _).symm
  exact ⟨edgesLeft s, t, edgesLeft_le s, ht, hlt.not_busy_of_edgesLeft hdone⟩

/-! ### Timing does not depend on data (R119) -/

/-- What an edge's timing rests on: BUSY, ESTATE, t and SEQ. -/
def SameControl (s t : State) : Prop := s.busy = t.busy ∧ s.estate = t.estate ∧ s.t = t.t ∧ s.seq = t.seq

theorem compressionCount_update_congr {s s' : State} {n : BitVec 3} (d d' : Word) (hl : s.bufLen = s'.bufLen)
    (he : updateError n s = none ↔ updateError n s' = none) :
    compressionCount (.update n d) s = compressionCount (.update n d') s' := by
  simp only [compressionCount, hl, he]

theorem compressionCount_finalize_congr {s s' : State} (hl : s.bufLen = s'.bufLen)
    (he : finalizeError s = none ↔ finalizeError s' = none) :
    compressionCount .finalize s = compressionCount .finalize s' := by
  simp only [compressionCount, hl, ne_eq, he]

/-- The engine and SEQ go on from their own control values alone. -/
theorem SameControl.after_busyEdge {s s' t t' : State} (h : SameControl s s') (ht : busyEdge s = .next t)
    (ht' : busyEdge s' = .next t') : SameControl t t' := by
  obtain ⟨hb, he, hc, hq⟩ := h
  obtain ⟨hs, rfl⟩ | ⟨hs, rfl⟩ | ⟨hs, hp, rfl⟩ | ⟨hs, hp, rfl⟩ := busyEdge_cases ht
  · rw [busyEdge, ← he, hs] at ht'
    cases ht'
    simp only [SameControl, roundEdge_busy, roundEdge_estate, roundEdge_t, roundEdge_seq, hb, hc, hq, and_self]
  · rw [busyEdge, ← he, hs] at ht'
    cases ht'
    simp only [SameControl, addEdge_busy, addEdge_estate, addEdge_t, addEdge_seq, hq, and_self]
  · rw [busyEdge, ← he, ← hq, hs, hp] at ht'
    cases ht'
    simp only [SameControl, lengthBlockEdge_busy, lengthBlockEdge_estate, lengthBlockEdge_t, lengthBlockEdge_seq,
      and_self]
  · rw [busyEdge, ← he, ← hq, hs, hp] at ht'
    cases ht'
    exact ⟨rfl, he, hc, rfl⟩

/-- Settles O52: the counts rest on the errors and bufLen, an edge on the engine's control values. -/
theorem referenceTimingIndependentOfData : Obligations.ReferenceTimingIndependentOfData := by
  unfold Obligations.ReferenceTimingIndependentOfData
  refine ⟨fun cc ft s s' n d d' hl he => ?_, fun cc ft s s' hl he => ?_,
    fun s s' t t' hb hb' hs hc hq hr hr' ht ht' => ?_⟩
  · simp only [edgesOccupied, compressionCount_update_congr d d' hl he, reduceCtorEq]
  · simp only [edgesOccupied, compressionCount_finalize_congr hl he]
  · rw [clockEdge_busy (nextInput_rst_of_noReset hr) hb] at ht
    rw [clockEdge_busy (nextInput_rst_of_noReset hr') hb'] at ht'
    have hsame : SameControl s.popInput s'.popInput := ⟨hb.trans hb'.symm, hs, hc, hq⟩
    exact hsame.after_busyEdge ht ht'

end Sys2Proof
end
